-- ==== Sys2Proof/Word.lean ====
section
/-! DEFINITION. The words of the block: the widths of the shift registers, of the key and of the words that cross its
boundary (spec/00_scope.md R5, R6; spec/30_encoding.md R45, R50). -/

namespace Sys2Proof

/-- LEN1, LEN2, LEN3: the fixed lengths of the three shift registers (spec/00_scope.md R5, spec/10_state.md R11). -/
abbrev len1 : Nat := 19
abbrev len2 : Nat := 22
abbrev len3 : Nat := 23

/-- A 64-bit key (spec/42_key_scheduler.md R90), also the width of the operand field ARG. -/
abbrev Key := BitVec 64

/-- The operand field ARG of a command (spec/30_encoding.md R45). -/
abbrev Arg := BitVec 64

/-- The opcode field OP of a command (spec/30_encoding.md R45). -/
abbrev Opcode := BitVec 8

/-- A command word CW[71:0] (spec/30_encoding.md R45). -/
abbrev CommandWord := BitVec 72

/-- A response word RSP[19:0] (spec/30_encoding.md R50). -/
abbrev ResponseWord := BitVec 20

/-- The SAMPLE field of XFORM and the DATA field of a response (spec/30_encoding.md R46, R50). -/
abbrev Data := BitVec 16

/-- The width register W holds 0, 1 or 2 (spec/10_state.md R15). -/
abbrev WidthReg := BitVec 2

end Sys2Proof
end

