-- ==== Sys2Proof/Syntax.lean ====
section
/-! DEFINITION. The commands (spec/30_encoding.md R46, R47), the two raw fields of a command word (R45), the status codes
and the response (R50, R51), and the lines of the spec's assembler (R57). -/

namespace Sys2Proof

/-- The five commands, one constructor per row of spec/opcode_table.json (spec/30_encoding.md R47). The operand types are
exactly the operand fields of the formats K, N, W and S (R46). -/
inductive Instr where
  /-- SETKEY, opcode 0x01, format K: KEY = ARG[63:0]. -/
  | setkey (key : Key)
  /-- RESET, opcode 0x02, format N. The command, not the hardware reset. -/
  | reset
  /-- NEXTBIT, opcode 0x03, format N. -/
  | nextbit
  /-- START, opcode 0x04, format W: WIDTH = uint(ARG[63:0]), any 64-bit value (R49). -/
  | start (width : Arg)
  /-- XFORM, opcode 0x05, format S: SAMPLE = ARG[15:0]. -/
  | xform (sample : Data)
  deriving DecidableEq, Repr

/-- The two fields of a command word, whatever they hold (spec/30_encoding.md R45). -/
structure RawCommand where
  op  : Opcode
  arg : Arg
  deriving DecidableEq, Repr

/-- The status codes of spec/30_encoding.md R51. Codes 0x8 to 0xF are reserved and are no constructor. -/
inductive Status where
  | ok
  /-- Host-side codec only; the block never answers it (spec/60_exceptions.md R131). -/
  | validationError
  | unsupportedFormatError
  /-- The container collaborator only; the block never answers it (spec/60_exceptions.md R133). -/
  | processingError
  | illegalCommand
  | noKey
  | noFormat
  | sampleRange
  deriving DecidableEq, Repr

/-- A response: the fields ST and DATA of RSP[19:0] (spec/30_encoding.md R50). -/
structure Response where
  st   : Status
  data : Data
  deriving DecidableEq, Repr

/-- A line of assembler text that encodes a command (spec/30_encoding.md R57). XFORM.B and XFORM.H are two spellings of
the one command XFORM. Operands are the numbers the text writes; WellFormed says which are in range. -/
inductive AsmLine where
  | setkey (key : Key)
  | reset
  | nextbit
  | start (w : Nat)
  | xformB (v : Int)
  | xformH (v : Int)
  deriving DecidableEq, Repr

end Sys2Proof
end

