-- ==== Sys2Proof/WellFormed.lean ====
section
/-! DEFINITION. Which raw commands the opcode table gives a meaning (spec/30_encoding.md R53, R54), which commands are
encodable, and which assembler lines are in range (R57). -/

namespace Sys2Proof

/-- The opcode is one of the five assigned ones; 0x00 and 0x06 to 0xFF are reserved (spec/30_encoding.md R53). -/
def RawCommand.opcodeAssigned (c : RawCommand) : Bool :=
  decide (1 ≤ c.op.toNat ∧ c.op.toNat ≤ 5)

/-- The reserved ARG bits are zero: all of ARG for RESET and NEXTBIT, ARG[63:16] for XFORM (spec/30_encoding.md R46, R54). -/
def RawCommand.reservedZero (c : RawCommand) : Bool :=
  if c.op.toNat = 2 ∨ c.op.toNat = 3 then c.arg.toNat == 0
  else if c.op.toNat = 5 then decide (c.arg.toNat < 2 ^ 16)
  else true

/-- A raw command that matches a row of the opcode table. -/
def RawCommand.wellFormed (c : RawCommand) : Bool :=
  c.opcodeAssigned && c.reservedZero

/-- Every command is encodable: the operand types of Instr hold exactly the values the formats of spec/30_encoding.md R46
admit, so no ill-formed Instr can be written. -/
def Instr.wellFormed : Instr → Bool
  | .setkey _ => true
  | .reset => true
  | .nextbit => true
  | .start _ => true
  | .xform _ => true

/-- The operand ranges of the assembler (spec/30_encoding.md R57). -/
def AsmLine.wellFormed : AsmLine → Bool
  | .setkey _ => true
  | .reset => true
  | .nextbit => true
  | .start w => decide (w < 2 ^ 64)
  | .xformB v => decide (0 ≤ v ∧ v ≤ 255)
  | .xformH v => decide (-32768 ≤ v ∧ v ≤ 32767)

end Sys2Proof
end

