-- ==== Sys2Proof/Decode.lean ====
section
/-! DEFINITION. Decoding a command word (spec/30_encoding.md R45, R47, R53 to R56), the encoder, the response word
(R50, R51), the opcode table as rows of mask and pattern (R47), and the encoding of assembler lines (R57). The 72-bit word
is decoded as one word: the block has no byte order (spec/20_memory.md R32). -/

namespace Sys2Proof

/-- Why a command word is illegal. Either reason is answered with the status IllegalCommand (spec/30_encoding.md R56). -/
inductive DecodeError where
  /-- OP is 0x00 or 0x06 to 0xFF (spec/30_encoding.md R53). -/
  | reservedOpcode (op : Opcode)
  /-- A reserved bit of ARG is not zero (spec/30_encoding.md R54). -/
  | reservedArg (op : Opcode)
  deriving DecidableEq, Repr

/-- OP = CW[71:64] and ARG = CW[63:0] (spec/30_encoding.md R45). -/
def splitWord (cw : CommandWord) : RawCommand :=
  { op := cw.extractLsb' 64 8, arg := cw.extractLsb' 0 64 }

/-- Decoding the two fields, in the order of spec/30_encoding.md R56: the opcode, then the reserved ARG bits. -/
def decodeFields (op : Opcode) (arg : Arg) : Except DecodeError Instr :=
  if op = 0x01#8 then .ok (.setkey arg)
  else if op = 0x02#8 then
    if arg = 0#64 then .ok .reset else .error (.reservedArg op)
  else if op = 0x03#8 then
    if arg = 0#64 then .ok .nextbit else .error (.reservedArg op)
  else if op = 0x04#8 then .ok (.start arg)
  else if op = 0x05#8 then
    if arg.extractLsb' 16 48 = 0#48 then .ok (.xform (arg.extractLsb' 0 16)) else .error (.reservedArg op)
  else .error (.reservedOpcode op)

/-- The decoder: total on all 2^72 words. -/
def decode (cw : CommandWord) : Except DecodeError Instr :=
  decodeFields (splitWord cw).op (splitWord cw).arg

/-- OP of a command (spec/30_encoding.md R47). -/
def Instr.opcode : Instr → Opcode
  | .setkey _ => 0x01#8
  | .reset => 0x02#8
  | .nextbit => 0x03#8
  | .start _ => 0x04#8
  | .xform _ => 0x05#8

/-- ARG of a command, reserved bits zero (spec/30_encoding.md R46). -/
def Instr.arg : Instr → Arg
  | .setkey key => key
  | .reset => 0#64
  | .nextbit => 0#64
  | .start width => width
  | .xform sample => sample.setWidth 64

/-- The encoder: the command word with OP in CW[71:64] and ARG in CW[63:0]. -/
def encode (i : Instr) : CommandWord :=
  i.opcode ++ i.arg

/-- The host's reading of a table row's word: bit 0 is CW[0]. A row has 72 bits (spec/opcode_table.json), bits above
nbits are zero, and a longer word is no command (log 10). -/
def decodeTableWord (nbits w : Nat) : Option Instr :=
  if nbits ≤ 72 then
    match decode (BitVec.ofNat 72 (w % 2 ^ nbits)) with
    | .ok i => some i
    | .error _ => none
  else none

/-- A row of the opcode table: a word cw selects it when cw AND mask = pattern (spec/30_encoding.md R47). -/
structure TableRow where
  mnemonic : String
  mask     : CommandWord
  pattern  : CommandWord
  deriving DecidableEq, Repr

/-- The five rows of spec/30_encoding.md R47, as spec/opcode_table.json prints them. -/
def opcodeTable : List TableRow :=
  [ { mnemonic := "SETKEY", pattern := 0x010000000000000000#72, mask := 0xFF0000000000000000#72 },
    { mnemonic := "RESET", pattern := 0x020000000000000000#72, mask := 0xFFFFFFFFFFFFFFFFFF#72 },
    { mnemonic := "NEXTBIT", pattern := 0x030000000000000000#72, mask := 0xFFFFFFFFFFFFFFFFFF#72 },
    { mnemonic := "START", pattern := 0x040000000000000000#72, mask := 0xFF0000000000000000#72 },
    { mnemonic := "XFORM", pattern := 0x050000000000000000#72, mask := 0xFFFFFFFFFFFFFF0000#72 } ]

/-- A word selects a row of the table (spec/30_encoding.md R47). -/
def TableRow.selects (r : TableRow) (cw : CommandWord) : Bool :=
  cw &&& r.mask == r.pattern

/-- The mnemonic of a command's row (spec/opcode_table.json). -/
def Instr.mnemonic : Instr → String
  | .setkey _ => "SETKEY"
  | .reset => "RESET"
  | .nextbit => "NEXTBIT"
  | .start _ => "START"
  | .xform _ => "XFORM"

/-- The status numbers of spec/30_encoding.md R51. -/
def Status.code : Status → BitVec 4
  | .ok => 0x0#4
  | .validationError => 0x1#4
  | .unsupportedFormatError => 0x2#4
  | .processingError => 0x3#4
  | .illegalCommand => 0x4#4
  | .noKey => 0x5#4
  | .noFormat => 0x6#4
  | .sampleRange => 0x7#4

/-- The status of a number; 0x8 to 0xF are reserved (spec/30_encoding.md R51). -/
def Status.ofCode (c : BitVec 4) : Option Status :=
  [Status.ok, .validationError, .unsupportedFormatError, .processingError, .illegalCommand, .noKey, .noFormat,
    .sampleRange].find? (fun s => s.code == c)

/-- The document's success flag: OK is success, any other code failure (spec/30_encoding.md R50, spec/60_exceptions.md
R145). -/
def Status.success (s : Status) : Bool :=
  s == .ok

/-- The response word: ST in RSP[19:16], DATA in RSP[15:0] (spec/30_encoding.md R50). -/
def Response.word (r : Response) : ResponseWord :=
  r.st.code ++ r.data

/-- The host's reading of a response word (spec/30_encoding.md R50). -/
def Response.ofWord (w : ResponseWord) : Option Response :=
  match Status.ofCode (w.extractLsb' 16 4) with
  | some st => some { st := st, data := w.extractLsb' 0 16 }
  | none => none

/-- The command an assembler line stands for: XFORM.B v has ARG = v, XFORM.H v has ARG = v mod 2^16
(spec/30_encoding.md R57). -/
def AsmLine.command : AsmLine → Instr
  | .setkey key => .setkey key
  | .reset => .reset
  | .nextbit => .nextbit
  | .start w => .start (BitVec.ofNat 64 w)
  | .xformB v => .xform (BitVec.ofInt 16 v)
  | .xformH v => .xform (BitVec.ofInt 16 v)

/-- Assembling a line: the command word of a line whose operand is in range, nothing otherwise. -/
def AsmLine.assemble (a : AsmLine) : Option CommandWord :=
  if a.wellFormed then some (encode a.command) else none

end Sys2Proof
end

