-- ==== Sys2Proof/Config.lean ====
section
/-! DEFINITION. What the spec leaves open: the contents of R1, R2, R3 and K after a hardware reset
(spec/93_implementation_defined.md U1, spec/70_reset_and_hazards.md R151). The parameters of spec/00_scope.md R5 are
constants of the block and stand beside the operations that use them. -/

namespace Sys2Proof

/-- FREE VALUE (log 2): what R1 holds after the n-th HRESET event ("unspecified", spec/10_state.md R19). No body. -/
opaque Config.hresetR1 : Nat → BitVec 19

/-- FREE VALUE (log 2): what R2 holds after the n-th HRESET event. -/
opaque Config.hresetR2 : Nat → BitVec 22

/-- FREE VALUE (log 2): what R3 holds after the n-th HRESET event. -/
opaque Config.hresetR3 : Nat → BitVec 23

/-- FREE VALUE (log 2): what K holds after the n-th HRESET event. -/
opaque Config.hresetK : Nat → Key

end Sys2Proof
end

