-- ==== Sys2Proof/Machine/State.lean ====
section
/-! DEFINITION. The state of the block: the six items of spec/10_state.md R10, and beside them the two sides of its
boundary (what the host will do, what it has been answered) and the counter of free values, which are the model's own
fields (log 2, 3, 4). -/

namespace Sys2Proof.Machine

/-- The three shift registers; document index j of a register is bit j (spec/10_state.md R11). All 2^64 combinations of
contents are legal (R13). -/
structure Regs where
  r1 : BitVec 19
  r2 : BitVec 22
  r3 : BitVec 23
  deriving DecidableEq, Repr

/-- What the host does to the block (spec/70_reset_and_hazards.md R160): it issues a command word, or applies the hardware
reset HRESET, which is no command (R150). -/
inductive HostEvent where
  | command (cw : CommandWord)
  | hreset
  deriving DecidableEq, Repr

/-- The state. -/
structure State where
  /-- R1, R2, R3 (spec/10_state.md R11). -/
  regs  : Regs
  /-- K: the key last loaded; document key bit i is bit 63 - i (spec/10_state.md R14). -/
  k     : Key
  /-- W: 0 no format, 1 one-byte samples, 2 two-byte samples; 3 never occurs (spec/10_state.md R15). -/
  w     : WidthReg
  /-- KV: a key has been loaded since HRESET (spec/10_state.md R16). -/
  kv    : Bool
  /-- The model's own field (log 3): what the host does from now on, the next event first. -/
  input : List HostEvent
  /-- The model's own field (log 4): the responses given so far, the oldest first. -/
  out   : List Response
  /-- The model's own field (log 2): how many HRESET events have drawn free values. -/
  free  : Nat
  deriving DecidableEq, Repr

/-- Why the machine could stop with a fault: there is no such reason. Every failing command of the spec answers a status
and the host goes on (spec/60_exceptions.md R135), and no behaviour of the block is "stuck"
(spec/93_implementation_defined.md, end of part 1; log 11). -/
inductive Fault where
  deriving DecidableEq, Repr

/-- Why a command could have no meaning. -/
inductive Refusal where
  /-- Raised by an arm of exec for a command not modelled yet; no arm raises it now. Safe: the model stops where the
  hardware goes on. -/
  | notModelled (mnemonic : String)
  deriving DecidableEq, Repr

/-- The state right after HRESET: KV = 0 and W = 0 (spec/10_state.md R19, spec/70_reset_and_hazards.md R151). R1, R2, R3
and K are unspecified there; zero is the model's choice (DESIGN CHOICE, unsafe, log 1). Nothing has been issued or answered
(DESIGN CHOICE, log 3, 4), no free value drawn (DESIGN CHOICE, log 2). -/
def State.reset : State :=
  { regs := { r1 := 0#19, r2 := 0#22, r3 := 0#23 }
    k := 0#64
    w := 0#2
    kv := false
    input := []
    out := []
    free := 0 }

end Sys2Proof.Machine
end

