-- ==== Sys2Proof/Machine/Ops.lean ====
section
/-! DEFINITION. The named operations over the state: answering a command, failing a command (the one shared operation of
every error, spec/60_exceptions.md R135), writing the registers, the hardware reset, and taking the host's next event. -/

namespace Sys2Proof.Machine

/-- The command ends with this status and this DATA (spec/00_scope.md 4.4, respond): one response word joins those given. -/
def State.respond (s : State) (st : Status) (data : Data) : State :=
  { s with out := s.out ++ [{ st := st, data := data }] }

/-- raise: the command ends with an error. R1, R2, R3, K, W and KV keep their values and DATA is 0; nothing is saved or
recorded, there is no handler to enter and so nothing to return from (spec/60_exceptions.md R135, R136, R140). -/
def State.raise (s : State) (st : Status) : State :=
  s.respond st 0x0000#16

/-- Write of the three shift registers. -/
def State.setRegs (s : State) (g : Regs) : State :=
  { s with regs := g }

/-- Write of the key register, the whole 64 bits at once (spec/10_state.md R17). -/
def State.setKey (s : State) (key : Key) : State :=
  { s with k := key }

/-- Write of the width register (spec/10_state.md R15). -/
def State.setWidth (s : State) (w : WidthReg) : State :=
  { s with w := w }

/-- The hardware reset: KV = 0, W = 0; R1, R2, R3 and K hold unspecified values, here free values (log 2). No response is
given (spec/70_reset_and_hazards.md R150, R151). -/
def State.hreset (s : State) : State :=
  { s with
    regs := { r1 := Config.hresetR1 s.free, r2 := Config.hresetR2 s.free, r3 := Config.hresetR3 s.free }
    k := Config.hresetK s.free
    w := 0#2
    kv := false
    free := s.free + 1 }

/-- The host's next event and the state from which it is served; none when the host has stopped or not yet issued one
(spec/20_memory.md R36). -/
def State.nextEvent (s : State) : Option (HostEvent × State) :=
  match s.input with
  | [] => none
  | e :: rest => some (e, { s with input := rest })

/-- The host does e next, before whatever it was going to do. -/
def State.place (s : State) (e : HostEvent) : State :=
  { s with input := e :: s.input }

end Sys2Proof.Machine
end

