-- ==== Sys2Proof/Machine/Flags.lean ====
section
/-! DEFINITION. KV, the only status flag of the block (spec/10_state.md R16). Only SETKEY sets it, only HRESET clears it. -/

namespace Sys2Proof.Machine

/-- KV := 1 (spec/42_key_scheduler.md R95). -/
def State.setKeyValid (s : State) : State :=
  { s with kv := true }

/-- The condition of NoKey: KV = 0 (spec/60_exceptions.md R134). -/
def State.keyMissing (s : State) : Bool :=
  !s.kv

/-- The condition of NoFormat: W = 0 (spec/60_exceptions.md R134). -/
def State.formatMissing (s : State) : Bool :=
  s.w == 0#2

end Sys2Proof.Machine
end

