-- ==== Sys2Proof/Machine/ShiftRegister.lean ====
section
/-! DEFINITION. The shift register family: the micro-operations FEEDBACK and CLOCK (spec/40_shift_register.md), with the
tap sets and clock-bit indices wired into the block (spec/10_state.md R12). -/

namespace Sys2Proof.Machine

/-- TAPS1 (spec/10_state.md R12). A tap is an index inside its register (R13; spec/93_implementation_defined.md U2). -/
def taps1 : List (Fin 19) := [13, 16, 17, 18]

/-- TAPS2 (spec/10_state.md R12). -/
def taps2 : List (Fin 22) := [20, 21]

/-- TAPS3 (spec/10_state.md R12). -/
def taps3 : List (Fin 23) := [7, 20, 21, 22]

/-- The clock bits R1[8], R2[10], R3[10] (spec/10_state.md R12). -/
def clockBit1 (x : BitVec 19) : Bool := x.getLsbD 8
def clockBit2 (x : BitVec 22) : Bool := x.getLsbD 10
def clockBit3 (x : BitVec 23) : Bool := x.getLsbD 10

/-- FEEDBACK(x, T): the XOR over t in T of x[t]; over no taps it is 0 (spec/40_shift_register.md R65). -/
def feedback {n : Nat} (x : BitVec n) : List (Fin n) → Bool
  | [] => false
  | t :: ts => x.getLsbD t.val ^^ feedback x ts

/-- CLOCK: the feedback of the value before the shift becomes the head (bit 0), every other bit moves one place toward the
tail, the tail is dropped (spec/40_shift_register.md R67): the vector R[LEN-2:0] followed by the feedback (R68). -/
def clock {n : Nat} (x : BitVec n) (taps : List (Fin n)) : BitVec n :=
  x.shiftConcat (feedback x taps)

/-- The inverse of CLOCK, as spec/40_shift_register.md R68 gives it for a tap set that holds the tail: the old tail is the
new head XOR the bits new[t+1] of the other taps, the other old bits are new[LEN-1:1]. -/
def unclock {n : Nat} (y : BitVec (n + 1)) (otherTaps : List (Fin (n + 1))) : BitVec (n + 1) :=
  BitVec.cons ((y.getLsbD 0) ^^ otherTaps.foldr (fun t acc => y.getLsbD (t.val + 1) ^^ acc) false)
    (y.extractLsb' 1 n)

end Sys2Proof.Machine
end

