-- ==== Sys2Proof/Machine/KeystreamGenerator.lean ====
section
/-! DEFINITION. The keystream generator family: the micro-operations MAJORITY, CLOCKALL and OUTBIT and the command NEXTBIT
(spec/41_keystream_generator.md). -/

namespace Sys2Proof.Machine

/-- MAJORITY of three clock bits: 1 when their integer sum is at least 2 (spec/41_keystream_generator.md R75). -/
def majorityOf (c1 c2 c3 : Bool) : Bool :=
  decide (2 ≤ c1.toNat + c2.toNat + c3.toNat)

/-- MAJORITY of the registers' clock bits (spec/41_keystream_generator.md R75). -/
def majority (g : Regs) : Bool :=
  majorityOf (clockBit1 g.r1) (clockBit2 g.r2) (clockBit3 g.r3)

/-- CLOCKALL: the majority is taken once, from the registers before the step, and each register whose clock bit equals it
is clocked; a skipped register keeps its value (spec/41_keystream_generator.md R77, R78; spec/70_reset_and_hazards.md
R156). -/
def clockAll (g : Regs) : Regs :=
  { r1 := if clockBit1 g.r1 = majority g then clock g.r1 taps1 else g.r1
    r2 := if clockBit2 g.r2 = majority g then clock g.r2 taps2 else g.r2
    r3 := if clockBit3 g.r3 = majority g then clock g.r3 taps3 else g.r3 }

/-- How many registers a CLOCKALL step clocks (spec/41_keystream_generator.md R79). -/
def clockedCount (g : Regs) : Nat :=
  (clockBit1 g.r1 == majority g).toNat + (clockBit2 g.r2 == majority g).toNat + (clockBit3 g.r3 == majority g).toNat

/-- n steps of CLOCKALL: the registers n keystream positions further on (spec/41_keystream_generator.md R85). -/
def clockAllN : Nat → Regs → Regs
  | 0, g => g
  | n + 1, g => clockAllN n (clockAll g)

/-- OUTBIT: the XOR of the tail bits R1[18], R2[21], R3[22] (spec/41_keystream_generator.md R80). -/
def outBit (g : Regs) : Bool :=
  g.r1.getLsbD 18 ^^ g.r2.getLsbD 21 ^^ g.r3.getLsbD 22

/-- The next n keystream bits from registers g: each is OUTBIT after its step (spec/41_keystream_generator.md R81, R82). -/
def keystream : Nat → Regs → List Bool
  | 0, _ => []
  | n + 1, g => outBit (clockAll g) :: keystream n (clockAll g)

/-- DATA of NEXTBIT: zext_16 of the keystream bit (spec/30_encoding.md R52). -/
def bitData (z : Bool) : Data :=
  (BitVec.ofBool z).setWidth 16

/-- NEXTBIT (spec/41_keystream_generator.md R81): NoKey while KV = 0; one CLOCKALL; the answer is OUTBIT of the registers
after it (spec/70_reset_and_hazards.md R157). -/
def execNextbit (s : State) : Host.Outcome State Fault Refusal :=
  if s.keyMissing then .next (s.raise .noKey)
  else .next ((s.setRegs (clockAll s.regs)).respond .ok (bitData (outBit (clockAll s.regs))))

end Sys2Proof.Machine
end

