-- ==== Sys2Proof/Machine/Operands.lean ====
section
/-! DEFINITION. The operand forms: key bits (spec/42_key_scheduler.md R91), the width of START (spec/30_encoding.md R49,
spec/43_sample_cipher.md R111, R112), and the sample of XFORM read under W and its result written under W
(spec/30_encoding.md R49, R52). -/

namespace Sys2Proof.Machine

/-- Document key bit i, which is K[63 - i]: key[0] is the most significant bit (spec/42_key_scheduler.md R91). -/
def keyBit (key : Key) (i : Nat) : Bool :=
  key.getLsbD (63 - i)

/-- START's WIDTH as a value for W: 1 or 2, any other width is UnsupportedFormatError (spec/43_sample_cipher.md R111,
R112). -/
def startWidth (width : Arg) : Except Status WidthReg :=
  if width = 1#64 then .ok 1#2
  else if width = 2#64 then .ok 2#2
  else .error .unsupportedFormatError

/-- The sample value of XFORM's field under W: for W = 1 the unsigned low byte, SampleRange when the high byte is not zero;
otherwise (W = 2) the two's complement value of the field (spec/30_encoding.md R49, spec/43_sample_cipher.md R115). -/
def sampleOperand (w : WidthReg) (field : Data) : Except Status Int :=
  if w = 1#2 then
    if field.extractLsb' 8 8 ≠ 0#8 then .error .sampleRange
    else .ok (Int.ofNat (field.extractLsb' 0 8).toNat)
  else .ok field.toInt

/-- maxValue: 255 for W = 1, 32767 for W = 2 (spec/43_sample_cipher.md R111). -/
def maxValue (w : WidthReg) : Int :=
  if w = 1#2 then 255 else 32767

/-- LO of the valid range (spec/43_sample_cipher.md R111, R114). -/
def rangeLo (w : WidthReg) : Int :=
  if w = 1#2 then 0 else -32768

/-- HI of the valid range (spec/43_sample_cipher.md R111, R114). -/
def rangeHi (w : WidthReg) : Int :=
  if w = 1#2 then 255 else 32767

/-- DATA of XFORM's result: zext_16(out) for W = 1, the 16-bit two's complement of out for W = 2
(spec/30_encoding.md R52). -/
def sampleData (w : WidthReg) (out : Int) : Data :=
  if w = 1#2 then BitVec.ofNat 16 out.toNat else BitVec.ofInt 16 out

/-- The host's reading of XFORM's DATA under the width: the inverse of sampleData on the valid range (R52). -/
def readData (w : WidthReg) (d : Data) : Int :=
  if w = 1#2 then Int.ofNat d.toNat else d.toInt

end Sys2Proof.Machine
end

