-- ==== Sys2Proof/Machine/KeyScheduler.lean ====
section
/-! DEFINITION. The key scheduler family: the micro-operation INITREGS and the commands SETKEY and RESET
(spec/42_key_scheduler.md). -/

namespace Sys2Proof.Machine

/-- All three registers zero. -/
def Regs.zero : Regs :=
  { r1 := 0#19, r2 := 0#22, r3 := 0#23 }

/-- XOR of a bit into the head (bit 0) of a register. -/
def xorHead {n : Nat} (x : BitVec n) (b : Bool) : BitVec n :=
  x ^^^ (BitVec.ofBool b).setWidth n

/-- The key bit goes into the head of all three registers, clocked or not (spec/42_key_scheduler.md R93). -/
def injectBit (g : Regs) (b : Bool) : Regs :=
  { r1 := xorHead g.r1 b, r2 := xorHead g.r2 b, r3 := xorHead g.r3 b }

/-- Round i of INITREGS: CLOCKALL on the registers as they are, then the key bit (spec/42_key_scheduler.md R92, R93;
spec/70_reset_and_hazards.md R158). -/
def keyRound (key : Key) (g : Regs) (i : Nat) : Regs :=
  injectBit (clockAll g) (keyBit key i)

/-- The registers after the first n rounds of INITREGS, from all zero. -/
def keyRounds (key : Key) : Nat → Regs
  | 0 => Regs.zero
  | n + 1 => keyRound key (keyRounds key n) n

/-- ROUNDS: one round per key bit, 64 (spec/00_scope.md R5, spec/90_conflicts.md C1). -/
def rounds : Nat := 64

/-- INITREGS(key): zero, then rounds 0 to 63, and nothing after them (spec/42_key_scheduler.md R92, R94). -/
def initRegs (key : Key) : Regs :=
  keyRounds key rounds

/-- SETKEY (spec/42_key_scheduler.md R95): K is written, the registers are loaded from it, KV is set; it always succeeds. -/
def execSetkey (key : Key) (s : State) : Host.Outcome State Fault Refusal :=
  .next ((((s.setKey key).setRegs (initRegs key)).setKeyValid).respond .ok 0x0000#16)

/-- RESET (spec/42_key_scheduler.md R96): NoKey while KV = 0; the registers return to the state after key loading. -/
def execReset (s : State) : Host.Outcome State Fault Refusal :=
  if s.keyMissing then .next (s.raise .noKey)
  else .next ((s.setRegs (initRegs s.k)).respond .ok 0x0000#16)

end Sys2Proof.Machine
end

