-- ==== Sys2Proof/Machine/SampleCipher.lean ====
section
/-! DEFINITION. The audio sample cipher family: the micro-operations MASKXOR and CLAMP and the commands START and XFORM
(spec/43_sample_cipher.md), with the integer XOR of spec/00_scope.md 4.1. -/

namespace Sys2Proof.Machine

/-- sint(tc_N(a) XOR tc_N(b)): the XOR of two integers in N-bit two's complement (spec/00_scope.md 4.1). -/
def xorAt (n : Nat) (a b : Int) : Int :=
  (BitVec.ofInt n a ^^^ BitVec.ofInt n b).toInt

/-- An N with -2^(N-1) <= a, b < 2^(N-1). -/
def xorWidth (a b : Int) : Nat :=
  max a.natAbs.log2 b.natAbs.log2 + 2

/-- xorZ: two's complement XOR without a width limit (spec/00_scope.md 4.1; spec/92_eei_decisions.md D10). -/
def xorZ (a b : Int) : Int :=
  xorAt (xorWidth a b) a b

/-- MASKXOR(s, k, maxValue): s XOR k * maxValue (spec/43_sample_cipher.md R113). -/
def maskXor (s : Int) (k : Bool) (max : Int) : Int :=
  xorZ s (k.toInt * max)

/-- CLAMP(raw, W), for every integer (spec/43_sample_cipher.md R114). -/
def clamp (raw : Int) (w : WidthReg) : Int :=
  min (max raw (rangeLo w)) (rangeHi w)

/-- The per-sample transform T_k under a width: mask, XOR, clamp (spec/43_sample_cipher.md R113, R114, R119). -/
def transform (w : WidthReg) (k : Bool) (s : Int) : Int :=
  clamp (maskXor s k (maxValue w)) w

/-- START (spec/43_sample_cipher.md R112): the width is checked first, then KV; W is written and the registers return to
the state after key loading. -/
def execStart (width : Arg) (s : State) : Host.Outcome State Fault Refusal :=
  match startWidth width with
  | .error e => .next (s.raise e)
  | .ok w =>
    if s.keyMissing then .next (s.raise .noKey)
    else .next (((s.setWidth w).setRegs (initRegs s.k)).respond .ok 0x0000#16)

/-- XFORM (spec/43_sample_cipher.md R115): NoKey, NoFormat, SampleRange in this order, before any write; then one CLOCKALL,
the same step and bit as NEXTBIT, and the transform of the sample with that bit. -/
def execXform (sample : Data) (s : State) : Host.Outcome State Fault Refusal :=
  if s.keyMissing then .next (s.raise .noKey)
  else if s.formatMissing then .next (s.raise .noFormat)
  else
    match sampleOperand s.w sample with
    | .error e => .next (s.raise e)
    | .ok v =>
      .next ((s.setRegs (clockAll s.regs)).respond .ok
        (sampleData s.w (transform s.w (outBit (clockAll s.regs)) v)))

end Sys2Proof.Machine
end

