-- ==== Sys2Proof/Machine/Dispatch.lean ====
section
/-! DEFINITION. One arm per command. -/

namespace Sys2Proof.Machine

def exec (i : Instr) (s : State) : Host.Outcome State Fault Refusal :=
  match i with
  | .setkey key => Sys2Proof.Machine.execSetkey key s
  | .reset => Sys2Proof.Machine.execReset s
  | .nextbit => Sys2Proof.Machine.execNextbit s
  | .start width => Sys2Proof.Machine.execStart width s
  | .xform sample => Sys2Proof.Machine.execXform sample s

end Sys2Proof.Machine
end

