-- ==== Sys2Proof/Machine/Step.lean ====
section
/-! DEFINITION. One step of the block: the host's next event is served (spec/20_memory.md R36). -/

namespace Sys2Proof.Machine

/-- A step. With no event from the host the block holds its state (spec/60_exceptions.md R144; log 5). HRESET is a step of
its own between commands (log 7). A word that decodes runs its command; any other word is answered IllegalCommand and
changes nothing (spec/30_encoding.md R53, R54). -/
def step (s : State) : Host.Outcome State Fault Refusal :=
  match s.nextEvent with
  | none => .next s
  | some (.hreset, t) => .next t.hreset
  | some (.command cw, t) =>
    match decode cw with
    | .ok i => exec i t
    | .error _ => .next (t.raise .illegalCommand)

/-- The host issues the word w next (log 3): the block fetches no instruction, the host supplies each command word. The
bits of w above nbits are zero. -/
def State.withFetchWord (s : State) (nbits w : Nat) : State :=
  s.place (.command (BitVec.ofNat 72 (w % 2 ^ nbits)))

end Sys2Proof.Machine
end

