-- ==== Sys2Proof/Machine/HexCodec.lean ====
section
/-! DEFINITION. The host-side key codec: HEX2KEY, KEY2HEX (spec/42_key_scheduler.md R97, R98) and the assembly of a key from
drawn bits (R101), on abstract characters (spec/91_not_in_source.md N9). -/

namespace Sys2Proof.Machine

/-- The value of a hexadecimal digit, either case (spec/42_key_scheduler.md R97). -/
def hexValue (c : Char) : Option Nat :=
  if 48 ≤ c.toNat ∧ c.toNat ≤ 57 then some (c.toNat - 48)
  else if 97 ≤ c.toNat ∧ c.toNat ≤ 102 then some (c.toNat - 97 + 10)
  else if 65 ≤ c.toNat ∧ c.toNat ≤ 70 then some (c.toNat - 65 + 10)
  else none

/-- The four bits of a digit's value, most significant first (spec/42_key_scheduler.md R97). -/
def nibbleBits (v : Nat) : List Bool :=
  [v.testBit 3, v.testBit 2, v.testBit 1, v.testBit 0]

/-- The key bits of a string of digits in order, or nothing when a character is no digit. -/
def hexBits : List Char → Option (List Bool)
  | [] => some []
  | c :: cs =>
    match hexValue c, hexBits cs with
    | some v, some bits => some (nibbleBits v ++ bits)
    | _, _ => none

/-- The 64-bit vector of the key bits key[0], key[1], ... with key[i] = K[63 - i] (spec/42_key_scheduler.md R91). -/
def keyOfBits (bits : List Bool) : Key :=
  bits.foldl (fun acc b => acc.shiftConcat b) 0#64

/-- HEX2KEY: nothing stands for ValidationError, a length other than 16 or a character that is no hexadecimal digit
(spec/42_key_scheduler.md R97). -/
def hex2key (s : List Char) : Option Key :=
  if s.length ≠ 16 then none
  else (hexBits s).map keyOfBits

/-- The lower-case hexadecimal digits (spec/42_key_scheduler.md R98). -/
def hexDigits : List Char :=
  ['0', '1', '2', '3', '4', '5', '6', '7', '8', '9', 'a', 'b', 'c', 'd', 'e', 'f']

/-- The value 8*b0 + 4*b1 + 2*b2 + b3 of nibble j of the key (spec/42_key_scheduler.md R98). -/
def keyNibble (key : Key) (j : Nat) : Nat :=
  8 * (keyBit key (4 * j)).toNat + 4 * (keyBit key (4 * j + 1)).toNat + 2 * (keyBit key (4 * j + 2)).toNat
    + (keyBit key (4 * j + 3)).toNat

/-- KEY2HEX: sixteen lower-case digits, in order (spec/42_key_scheduler.md R98). -/
def key2hex (key : Key) : List Char :=
  (List.range 16).map (fun j => hexDigits.getD (keyNibble key j) '0')

/-- The lower-case form of a hexadecimal digit, other characters as they are (spec/42_key_scheduler.md R99). -/
def lowerHex (c : Char) : Char :=
  if 65 ≤ c.toNat ∧ c.toNat ≤ 70 then Char.ofNat (c.toNat + 32) else c

/-- A key drawn from an injected random-bit source: draw i gives key[i] (spec/42_key_scheduler.md R101, log 13). -/
def keyFromSource (draw : Nat → Bool) : Key :=
  keyOfBits ((List.range 64).map draw)

end Sys2Proof.Machine
end

