-- ==== Sys2Proof/Machine/Assembler.lean ====
section
/-! DEFINITION. The text form of the assembler (spec/30_encoding.md R57): one command a line, a comment from ';' on. What R57
leaves open about spacing, blank lines and leading zeros is log 9. -/

namespace Sys2Proof.Machine

/-- The characters before the comment. -/
def stripComment (line : List Char) : List Char :=
  line.takeWhile (fun c => c != ';')

/-- The words of a line: maximal runs of characters other than the space and the tab; the accumulator holds the current
word reversed. -/
def wordsFrom : List Char → List Char → List (List Char)
  | [], [] => []
  | a :: acc, [] => [(a :: acc).reverse]
  | [], c :: cs => if c = ' ' ∨ c = '\t' then wordsFrom [] cs else wordsFrom [c] cs
  | a :: acc, c :: cs =>
    if c = ' ' ∨ c = '\t' then (a :: acc).reverse :: wordsFrom [] cs else wordsFrom (c :: a :: acc) cs

/-- The value of decimal digits read so far and still to read. -/
def decimalFrom : Nat → List Char → Option Nat
  | n, [] => some n
  | n, c :: cs =>
    if 48 ≤ c.toNat ∧ c.toNat ≤ 57 then decimalFrom (10 * n + (c.toNat - 48)) cs else none

/-- A decimal natural number: at least one digit. -/
def decimal : List Char → Option Nat
  | [] => none
  | c :: cs => decimalFrom 0 (c :: cs)

/-- A decimal integer: a natural number with an optional minus sign. -/
def signedDecimal : List Char → Option Int
  | '-' :: cs => (decimal cs).map (fun n => -(Int.ofNat n))
  | cs => (decimal cs).map Int.ofNat

/-- SETKEY's operand: 0x and exactly 16 hexadecimal digits (spec/30_encoding.md R57). -/
def keyLiteral : List Char → Option Key
  | '0' :: 'x' :: digits => hex2key digits
  | _ => none

/-- The line that the words of a command spell. -/
def parseWords : List (List Char) → Option AsmLine
  | [['R', 'E', 'S', 'E', 'T']] => some .reset
  | [['N', 'E', 'X', 'T', 'B', 'I', 'T']] => some .nextbit
  | [['S', 'E', 'T', 'K', 'E', 'Y'], operand] => (keyLiteral operand).map .setkey
  | [['S', 'T', 'A', 'R', 'T'], operand] => (decimal operand).map .start
  | [['X', 'F', 'O', 'R', 'M', '.', 'B'], operand] => (decimal operand).map (fun n => .xformB (Int.ofNat n))
  | [['X', 'F', 'O', 'R', 'M', '.', 'H'], operand] => (signedDecimal operand).map .xformH
  | _ => none

/-- The command words of one line: none at all for a blank or comment line, one for a command, nothing (none) for text that
is no line of the syntax or whose operand is out of range. -/
def assembleLine (line : List Char) : Option (List CommandWord) :=
  match wordsFrom [] (stripComment line) with
  | [] => some []
  | ws =>
    match parseWords ws with
    | none => none
    | some a => a.assemble.map (fun cw => [cw])

/-- The command words of a program, line by line; nothing when a line is no line of the syntax. -/
def assemble : List (List Char) → Option (List CommandWord)
  | [] => some []
  | line :: rest =>
    match assembleLine line, assemble rest with
    | some a, some b => some (a ++ b)
    | _, _ => none

end Sys2Proof.Machine
end

