-- ==== Sys2Proof/Machine/DocumentForm.lean ====
section
/-! DEFINITION. The other realisation that the document allows: a register as an index-addressed sequence of bits with
"insert at head, drop tail", clocked register by register (spec/40_shift_register.md R67, R70; spec/41_keystream_generator.md
R77, R78). The machine uses the bit vectors of spec/10_state.md R11; claims compare the two. -/

namespace Sys2Proof.Machine

/-- A register as a list of bits: index 0 is the head (spec/10_state.md R11). -/
def indexBits {n : Nat} (x : BitVec n) : List Bool :=
  (List.range n).map (fun j => x.getLsbD j)

/-- The three registers as lists of bits. -/
structure BitLists where
  r1 : List Bool
  r2 : List Bool
  r3 : List Bool
  deriving DecidableEq, Repr

/-- The contents of the registers read through the index convention (spec/40_shift_register.md R70). -/
def Regs.bits (g : Regs) : BitLists :=
  { r1 := indexBits g.r1, r2 := indexBits g.r2, r3 := indexBits g.r3 }

/-- feedback(taps): the XOR of the bits at the taps (spec/40_shift_register.md R65). -/
def listFeedback (bits : List Bool) : List Nat → Bool
  | [] => false
  | t :: ts => bits.getD t false ^^ listFeedback bits ts

/-- clock(taps): insert the feedback at the head, drop the tail (spec/40_shift_register.md R67). -/
def listClock (bits : List Bool) (taps : List Nat) : List Bool :=
  listFeedback bits taps :: bits.dropLast

/-- majority() of the clock bits at indices 8, 10, 10 (spec/41_keystream_generator.md R75). -/
def listMajority (g : BitLists) : Bool :=
  majorityOf (g.r1.getD 8 false) (g.r2.getD 10 false) (g.r3.getD 10 false)

/-- The document's wording of one register's turn: clock it iff its clock bit, read now, equals m. -/
def listTurn1 (m : Bool) (g : BitLists) : BitLists :=
  if g.r1.getD 8 false = m then { g with r1 := listClock g.r1 [13, 16, 17, 18] } else g
def listTurn2 (m : Bool) (g : BitLists) : BitLists :=
  if g.r2.getD 10 false = m then { g with r2 := listClock g.r2 [20, 21] } else g
def listTurn3 (m : Bool) (g : BitLists) : BitLists :=
  if g.r3.getD 10 false = m then { g with r3 := listClock g.r3 [7, 20, 21, 22] } else g

/-- clockAll(): the majority once, then the registers one after another (spec/41_keystream_generator.md R77, R78). -/
def listClockAll (g : BitLists) : BitLists :=
  listTurn3 (listMajority g) (listTurn2 (listMajority g) (listTurn1 (listMajority g) g))

/-- XOR into the head of a list of bits. -/
def listXorHead (b : Bool) : List Bool → List Bool
  | [] => []
  | x :: xs => (x ^^ b) :: xs

/-- A round of key loading (spec/42_key_scheduler.md R92). -/
def listRound (g : BitLists) (b : Bool) : BitLists :=
  { r1 := listXorHead b (listClockAll g).r1
    r2 := listXorHead b (listClockAll g).r2
    r3 := listXorHead b (listClockAll g).r3 }

/-- initializeRegisters(key): zeros, then one round per key bit, in order (spec/42_key_scheduler.md R92). -/
def listInit (keyBits : List Bool) : BitLists :=
  keyBits.foldl listRound
    { r1 := List.replicate 19 false, r2 := List.replicate 22 false, r3 := List.replicate 23 false }

/-- nextBit(): clockAll(), then the XOR of the last bits (spec/41_keystream_generator.md R81). -/
def listNextBit (g : BitLists) : Bool × BitLists :=
  ((listClockAll g).r1.getLastD false ^^ (listClockAll g).r2.getLastD false ^^ (listClockAll g).r3.getLastD false,
    listClockAll g)

/-- generate(n): nextBit() n times, in order (spec/41_keystream_generator.md R82). -/
def listGenerate : Nat → BitLists → List Bool
  | 0, _ => []
  | n + 1, g => (listNextBit g).1 :: listGenerate n (listNextBit g).2

end Sys2Proof.Machine
end

