-- ==== Sys2Proof/Machine/HostSide.lean ====
section
/-! DEFINITION. The host-side pseudo-instructions that issue commands: GEN (spec/41_keystream_generator.md R82), PROCESS
(spec/43_sample_cipher.md R120) and SETKEYHEX (spec/42_key_scheduler.md R100). Each issues its commands one by one, ahead of
whatever else the host was going to do, and reads each response before the next command (spec/20_memory.md R36). Nothing
(none) stands for a command that got no response, which the block never does. -/

namespace Sys2Proof.Machine

/-- The host issues one command word and reads its response (spec/20_memory.md R36). -/
def issue (cw : CommandWord) (s : State) : Option (State × Response) :=
  match step (s.place (.command cw)) with
  | .next t => t.out.getLast?.map (fun r => (t, r))
  | .fault _ => none
  | .refused _ => none

/-- GEN n: n NEXTBIT commands, the list of their bits DATA[0]; it stops at the first response other than OK and returns that
status (spec/41_keystream_generator.md R82). -/
def gen : Nat → State → Option (State × Except Status (List Bool))
  | 0, s => some (s, .ok [])
  | n + 1, s =>
    match issue (encode .nextbit) s with
    | none => none
    | some (t, r) =>
      if r.st = .ok then
        match gen n t with
        | none => none
        | some (u, .error e) => some (u, .error e)
        | some (u, .ok bits) => some (u, .ok (r.data.getLsbD 0 :: bits))
      else some (t, .error r.st)

/-- CHUNK of PROCESS: any positive number (spec/00_scope.md R6). -/
abbrev ChunkSize := { c : Nat // 0 < c }

/-- The chunks of a buffer, in order, each of length min(CHUNK, remaining) (spec/43_sample_cipher.md R120); the first
argument bounds how many are cut. -/
def chunksUpTo {α : Type} : Nat → ChunkSize → List α → List (List α)
  | 0, _, _ => []
  | _ + 1, _, [] => []
  | fuel + 1, c, x :: xs => (x :: xs).take c.val :: chunksUpTo fuel c ((x :: xs).drop c.val)

/-- All chunks of a buffer: at most as many as it has samples. -/
def chunks {α : Type} (c : ChunkSize) (buf : List α) : List (List α) :=
  chunksUpTo buf.length c buf

/-- The command word by which the host presents a sample, as XFORM.B (ARG = v) for width 1 and as XFORM.H
(ARG = v mod 2^16) otherwise (spec/30_encoding.md R57; log 8 for integers outside the width's range). -/
def sampleWord (width : Arg) (v : Int) : CommandWord :=
  if width = 1#64 then (0x05#8 ++ BitVec.ofInt 64 v : BitVec 72)
  else encode (.xform (BitVec.ofInt 16 v))

/-- The host's reading of DATA under the width it started with (spec/43_sample_cipher.md R120). -/
def readSample (width : Arg) (d : Data) : Int :=
  if width = 1#64 then readData 1#2 d else readData 2#2 d

/-- The samples of one chunk, in order. -/
def processChunk (width : Arg) : List Int → State → Option (State × Except Status (List Int))
  | [], s => some (s, .ok [])
  | v :: vs, s =>
    match issue (sampleWord width v) s with
    | none => none
    | some (t, r) =>
      if r.st = .ok then
        match processChunk width vs t with
        | none => none
        | some (u, .error e) => some (u, .error e)
        | some (u, .ok out) => some (u, .ok (readSample width r.data :: out))
      else some (t, .error r.st)

/-- The chunks of a buffer, in order; a failure returns no partial output (spec/43_sample_cipher.md R120). -/
def processChunks (width : Arg) : List (List Int) → State → Option (State × Except Status (List Int))
  | [], s => some (s, .ok [])
  | ch :: rest, s =>
    match processChunk width ch s with
    | none => none
    | some (t, .error e) => some (t, .error e)
    | some (t, .ok out) =>
      match processChunks width rest t with
      | none => none
      | some (u, .error e) => some (u, .error e)
      | some (u, .ok more) => some (u, .ok (out ++ more))

/-- PROCESS w, CHUNK, buf: START w, then one XFORM per sample (spec/43_sample_cipher.md R120). -/
def process (width : Arg) (chunk : ChunkSize) (buf : List Int) (s : State) :
    Option (State × Except Status (List Int)) :=
  match issue (encode (.start width)) s with
  | none => none
  | some (t, r) =>
    if r.st = .ok then processChunks width (chunks chunk buf) t
    else some (t, .error r.st)

/-- SETKEYHEX: ValidationError and no command when the string is no key, SETKEY otherwise (spec/42_key_scheduler.md R100). -/
def setkeyhex (str : List Char) (s : State) : Option (State × Status) :=
  match hex2key str with
  | none => some (s, .validationError)
  | some key => (issue (encode (.setkey key)) s).map (fun p => (p.1, p.2.st))

end Sys2Proof.Machine
end

