-- ==== Sys2Proof/Safety.lean ====
section
/-! DEFINITION. What a run may be trusted to keep, in the terms the claims use: legal states, what the host can observe, and
equality of the six items of spec/10_state.md R10. -/

namespace Sys2Proof.Machine

/-- W holds a legal value (spec/10_state.md R15), and a format is set only with a key (spec/60_exceptions.md R137, note). -/
def State.controlLegal (s : State) : Prop :=
  s.w ≠ 3#2 ∧ (s.kv = false → s.w = 0#2)

/-- With a key loaded, the registers stand some number of keystream positions after key loading
(spec/41_keystream_generator.md R85, spec/42_key_scheduler.md R102). -/
def State.onKeystream (s : State) : Prop :=
  s.kv = true → ∃ n, s.regs = clockAllN n (initRegs s.k)

/-- The legal states. -/
def State.Legal (s : State) : Prop :=
  s.controlLegal ∧ s.onKeystream

/-- The six items of spec/10_state.md R10 agree. -/
def State.SameBlock (s t : State) : Prop :=
  s.regs = t.regs ∧ s.k = t.k ∧ s.w = t.w ∧ s.kv = t.kv

/-- The two states differ at most in values the spec leaves unspecified: R1, R2, R3 and K count only once a key is loaded
(spec/10_state.md R19); the counter of free values does not count. -/
def State.AgreeSpecified (s t : State) : Prop :=
  s.kv = t.kv ∧ s.w = t.w ∧ s.input = t.input ∧ s.out = t.out ∧ (s.kv = true → s.regs = t.regs ∧ s.k = t.k)

/-- How many events of a list are commands: each gets exactly one response (spec/30_encoding.md R50). -/
def commandCount : List HostEvent → Nat
  | [] => 0
  | .command _ :: rest => commandCount rest + 1
  | .hreset :: rest => commandCount rest

/-- A sample in the valid range of its width (spec/43_sample_cipher.md R111). -/
def inRange (w : WidthReg) (v : Int) : Prop :=
  rangeLo w ≤ v ∧ v ≤ rangeHi w

/-- The width register's value of a supported width: 1 or 2 (spec/43_sample_cipher.md R111). -/
def Supported (w : WidthReg) : Prop :=
  w = 1#2 ∨ w = 2#2

/-- GEN of each part in turn, without a RESET between them (spec/41_keystream_generator.md R83, chunk splits). -/
def genParts : List Nat → State → Option (State × Except Status (List Bool))
  | [], s => some (s, .ok [])
  | n :: parts, s =>
    match gen n s with
    | none => none
    | some (t, .error e) => some (t, .error e)
    | some (t, .ok bits) =>
      match genParts parts t with
      | none => none
      | some (u, .error e) => some (u, .error e)
      | some (u, .ok more) => some (u, .ok (bits ++ more))

/-- What a host computes that draws the keystream first and transforms the samples itself
(spec/43_sample_cipher.md R121). -/
def transformBuffer (w : WidthReg) (key : Key) (buf : List Int) : List Int :=
  List.zipWith (fun z v => transform w z v) (keystream buf.length (initRegs key)) buf

end Sys2Proof.Machine
end

