-- ==== Sys2Proof/Certificates/Slice0/Obligations.lean ====
section
/-! DEFINITION. The statements for the provers. Each docstring names the rules of spec/ it formalises. -/

open Sys2Proof Sys2Proof.Machine

/-! Reset and the host's events. -/

/-- spec/10_state.md R15, R16, R19; spec/70_reset_and_hazards.md R151: after HRESET KV = 0 and W = 0. -/
def Obligations.ResetStateHasNoKeyAndNoFormat : Prop :=
  State.reset.kv = false ∧ State.reset.w = 0#2

/-- spec/70_reset_and_hazards.md R150, R151: HRESET at any time clears KV and W and gives no response. That the responses
already received and the host's further events stay as they are is the model's reading (DEDUCED, log 7). Nothing is said
about R1, R2, R3 and K, which are unspecified. -/
def Obligations.HresetEventClearsKeyValidAndWidth : Prop :=
  ∀ (s : State) (rest : List HostEvent), s.input = .hreset :: rest →
    ∃ t, step s = .next t ∧ t.kv = false ∧ t.w = 0#2 ∧ t.out = s.out ∧ t.input = rest

/-- spec/10_state.md R19: the values that HRESET leaves unspecified never influence a response. Two states that agree on
everything the spec specifies agree on it after any number of steps; while KV = 0 their R1, R2, R3 and K may differ. -/
def Obligations.UnspecifiedValuesAreNeverObserved : Prop :=
  ∀ (n : Nat) (s t s' : State), s.AgreeSpecified t → core.run n s = .next s' →
    ∃ t', core.run n t = .next t' ∧ s'.AgreeSpecified t'

/-- The model's choice, log 5 (spec/60_exceptions.md R144): with no event from the host the block holds its state. -/
def Obligations.IdleBlockHoldsItsState : Prop :=
  ∀ s : State, s.input = [] → step s = .next s

/-- spec/20_memory.md R36: a word that decodes runs its command on the state with that event taken from the stream. -/
def Obligations.StepRunsTheDecodedCommand : Prop :=
  ∀ (s : State) (cw : CommandWord) (rest : List HostEvent) (i : Instr),
    s.input = .command cw :: rest → decode cw = .ok i → step s = exec i { s with input := rest }

/-! Encoding. -/

/-- spec/30_encoding.md R45 to R49: decoding an encoded command gives it back, for every operand. -/
def Obligations.DecodeOfEncodeIsTheCommand : Prop :=
  ∀ i : Instr, i.wellFormed = true → decode (encode i) = .ok i

/-- spec/30_encoding.md R53, R54: no two words decode to the same command; no bit of a word is ignored. -/
def Obligations.EncodeOfDecodeIsTheWord : Prop :=
  ∀ (cw : CommandWord) (i : Instr), decode cw = .ok i → encode i = cw

/-- spec/30_encoding.md R47: a word selects a row of the opcode table exactly when it decodes to that row's command, and a
word that decodes selects some row. -/
def Obligations.DecoderAgreesWithTheOpcodeTable : Prop :=
  (∀ (cw : CommandWord) (r : TableRow), r ∈ opcodeTable →
    (r.selects cw = true ↔ ∃ i, decode cw = .ok i ∧ i.mnemonic = r.mnemonic)) ∧
  (∀ (cw : CommandWord) (i : Instr), decode cw = .ok i → ∃ r ∈ opcodeTable, r.mnemonic = i.mnemonic)

/-- spec/30_encoding.md R56: the decoder accepts exactly the words whose opcode is assigned and whose reserved ARG bits are
zero. -/
def Obligations.DecoderAcceptsExactlyWellFormedWords : Prop :=
  ∀ cw : CommandWord, (∃ i, decode cw = .ok i) ↔ (splitWord cw).wellFormed = true

/-- spec/30_encoding.md R53, R54: a reserved opcode, or nonzero reserved ARG bits, is answered IllegalCommand with DATA 0,
and only the taken event and the response differ. -/
def Obligations.IllegalWordsAreAnsweredIllegalCommand : Prop :=
  ∀ (s : State) (op : Opcode) (arg : Arg) (rest : List HostEvent),
    s.input = .command (op ++ arg) :: rest →
    (op = 0x00#8 ∨ 0x06#8 ≤ op) ∨ ((op = 0x02#8 ∨ op = 0x03#8) ∧ arg ≠ 0#64)
      ∨ (op = 0x05#8 ∧ arg.extractLsb' 16 48 ≠ 0#48) →
    step s = .next { s with input := rest, out := s.out ++ [{ st := .illegalCommand, data := 0#16 }] }

/-- spec/30_encoding.md R45 to R49: words written out from the encoding decode to their commands. -/
def Obligations.WordsFromTheEncodingDecode : Prop :=
  decode 0x010123456789ABCDEF#72 = .ok (.setkey 0x0123456789ABCDEF#64) ∧
  decode 0x020000000000000000#72 = .ok .reset ∧
  decode 0x030000000000000000#72 = .ok .nextbit ∧
  decode 0x040000000000000002#72 = .ok (.start 2#64) ∧
  decode 0x050000000000008000#72 = .ok (.xform 0x8000#16)

/-- spec/30_encoding.md R50, R51: ST is RSP[19:16] with the number R51 gives the status, DATA is RSP[15:0], the host reads
back the response from its word, and a word with a reserved status number (0x8 to 0xF) is no response. -/
def Obligations.ResponseWordHoldsStatusAndData : Prop :=
  (∀ r : Response, r.word.extractLsb' 16 4 = r.st.code ∧ r.word.extractLsb' 0 16 = r.data ∧
    Response.ofWord r.word = some r) ∧
  (Status.code .ok = 0x0#4 ∧ Status.code .validationError = 0x1#4 ∧ Status.code .unsupportedFormatError = 0x2#4 ∧
    Status.code .processingError = 0x3#4 ∧ Status.code .illegalCommand = 0x4#4 ∧ Status.code .noKey = 0x5#4 ∧
    Status.code .noFormat = 0x6#4 ∧ Status.code .sampleRange = 0x7#4) ∧
  (∀ w : ResponseWord, 8 ≤ (w.extractLsb' 16 4).toNat → Response.ofWord w = none)

/-- spec/42_key_scheduler.md R91; spec/30_encoding.md R48: key[i] = K[63 - i], so the sequence key[0], key[1], ... key[63]
is K read from its most significant bit. -/
def Obligations.KeyBitsAreMostSignificantFirst : Prop :=
  ∀ key : Key, (∀ i, i < 64 → keyBit key i = key.getLsbD (63 - i)) ∧
    keyOfBits ((List.range 64).map (keyBit key)) = key

/-- spec/42_key_scheduler.md R101, log 13 (the model's reading: draw i is key[i]): a key drawn from an injected source has
the drawn bits. -/
def Obligations.DrawnKeyHasTheDrawnBits : Prop :=
  ∀ (draw : Nat → Bool) (i : Nat), i < 64 → keyBit (keyFromSource draw) i = draw i

/-! Shift registers. -/

/-- spec/40_shift_register.md R65: FEEDBACK is 1 exactly when an odd number of the tapped bits are 1. -/
def Obligations.FeedbackIsTheParityOfTheTappedBits : Prop :=
  ∀ (n : Nat) (x : BitVec n) (taps : List (Fin n)),
    feedback x taps = true ↔ (taps.filter (fun t => x.getLsbD t.val)).length % 2 = 1

/-- spec/40_shift_register.md R66: the feedback of the three registers. -/
def Obligations.FeedbackOfTheThreeRegisters : Prop :=
  (∀ x : BitVec 19, feedback x taps1 = (x.getLsbD 13 ^^ x.getLsbD 16 ^^ x.getLsbD 17 ^^ x.getLsbD 18)) ∧
  (∀ x : BitVec 22, feedback x taps2 = (x.getLsbD 20 ^^ x.getLsbD 21)) ∧
  (∀ x : BitVec 23, feedback x taps3 = (x.getLsbD 7 ^^ x.getLsbD 20 ^^ x.getLsbD 21 ^^ x.getLsbD 22))

/-- spec/40_shift_register.md R67: the head becomes the feedback of the value before the shift, every other bit is the one
below it. -/
def Obligations.ClockInsertsFeedbackAndShifts : Prop :=
  ∀ (n : Nat) (x : BitVec n) (taps : List (Fin n)), 0 < n →
    (clock x taps).getLsbD 0 = feedback x taps ∧
    ∀ j, 1 ≤ j → j < n → (clock x taps).getLsbD j = x.getLsbD (j - 1)

/-- spec/40_shift_register.md R68: CLOCK on the integer value, ((R << 1) mod 2^LEN) with the feedback in bit 0. -/
def Obligations.ClockOnTheIntegerValue : Prop :=
  ∀ (n : Nat) (x : BitVec n) (taps : List (Fin n)), 0 < n →
    (clock x taps).toNat = (2 * x.toNat) % 2 ^ n + (feedback x taps).toNat

/-- spec/40_shift_register.md R68, corner cases: CLOCK is a bijection on the values of each register, with the inverse the
rule gives. -/
def Obligations.ClockIsInvertible : Prop :=
  (∀ x : BitVec 19, unclock (clock x taps1) [13, 16, 17] = x ∧ clock (unclock x [13, 16, 17]) taps1 = x) ∧
  (∀ x : BitVec 22, unclock (clock x taps2) [20] = x ∧ clock (unclock x [20]) taps2 = x) ∧
  (∀ x : BitVec 23, unclock (clock x taps3) [7, 20, 21] = x ∧ clock (unclock x [7, 20, 21]) taps3 = x)

/-- spec/40_shift_register.md R68, corner cases: CLOCK is linear. -/
def Obligations.ClockIsLinear : Prop :=
  ∀ (n : Nat) (x y : BitVec n) (taps : List (Fin n)), clock (x ^^^ y) taps = clock x taps ^^^ clock y taps

/-! Keystream generator. -/

/-- spec/41_keystream_generator.md R76: the Boolean form of MAJORITY, the value that at least two clock bits hold. -/
def Obligations.MajorityIsHeldByTwo : Prop :=
  ∀ c1 c2 c3 : Bool, majorityOf c1 c2 c3 = ((c1 && c2) || (c1 && c3) || (c2 && c3)) ∧
    2 ≤ (c1 == majorityOf c1 c2 c3).toNat + (c2 == majorityOf c1 c2 c3).toNat + (c3 == majorityOf c1 c2 c3).toNat

/-- spec/41_keystream_generator.md R79: a step clocks two or three registers: all three when the clock bits are equal,
otherwise the two whose clock bits agree, and the third keeps its value. -/
def Obligations.EveryStepClocksTwoOrThreeRegisters : Prop :=
  ∀ g : Regs, 2 ≤ clockedCount g ∧ clockedCount g ≤ 3 ∧
    (clockedCount g = 3 ↔ clockBit1 g.r1 = clockBit2 g.r2 ∧ clockBit2 g.r2 = clockBit3 g.r3) ∧
    (clockBit1 g.r1 = clockBit2 g.r2 → clockBit2 g.r2 = clockBit3 g.r3 →
      clockAll g = { r1 := clock g.r1 taps1, r2 := clock g.r2 taps2, r3 := clock g.r3 taps3 }) ∧
    (clockBit2 g.r2 = clockBit3 g.r3 → clockBit1 g.r1 ≠ clockBit2 g.r2 →
      clockAll g = { r1 := g.r1, r2 := clock g.r2 taps2, r3 := clock g.r3 taps3 }) ∧
    (clockBit1 g.r1 = clockBit3 g.r3 → clockBit2 g.r2 ≠ clockBit1 g.r1 →
      clockAll g = { r1 := clock g.r1 taps1, r2 := g.r2, r3 := clock g.r3 taps3 }) ∧
    (clockBit1 g.r1 = clockBit2 g.r2 → clockBit3 g.r3 ≠ clockBit1 g.r1 →
      clockAll g = { r1 := clock g.r1 taps1, r2 := clock g.r2 taps2, r3 := g.r3 })

/-- spec/41_keystream_generator.md R77, R78: clocking the registers one after another, as the document words it on lists of
bits with insert at head and drop tail, gives the same registers and the same output bit. -/
def Obligations.ClockAllAgreesWithTheDocumentForm : Prop :=
  ∀ g : Regs, (clockAll g).bits = listClockAll g.bits ∧ outBit (clockAll g) = (listNextBit g.bits).1

/-- spec/40_shift_register.md R70, spec/42_key_scheduler.md R92, spec/41_keystream_generator.md R82: from key loading on,
the whole keystream of the bit vectors is that of the document's lists of bits, for every key and every length. -/
def Obligations.KeystreamRefinesTheDocumentForm : Prop :=
  ∀ (key : Key) (n : Nat),
    (initRegs key).bits = listInit ((List.range 64).map (keyBit key)) ∧
    keystream n (initRegs key) = listGenerate n (listInit ((List.range 64).map (keyBit key)))

/-- spec/41_keystream_generator.md R84: all zero is a fixed point with output 0, the all-zero key leads to it, and SETKEY of
it followed by any number of NEXTBIT commands yields only zeros. -/
def Obligations.AllZeroKeyYieldsOnlyZeros : Prop :=
  clockAll { r1 := 0#19, r2 := 0#22, r3 := 0#23 } = { r1 := 0#19, r2 := 0#22, r3 := 0#23 } ∧
  outBit { r1 := 0#19, r2 := 0#22, r3 := 0#23 } = false ∧
  initRegs 0#64 = { r1 := 0#19, r2 := 0#22, r3 := 0#23 } ∧
  ∀ (s : State) (n : Nat), ∃ t u, issue (encode (.setkey 0#64)) s = some (t, { st := .ok, data := 0#16 }) ∧
    gen n t = some (u, .ok (List.replicate n false)) ∧ u.regs = { r1 := 0#19, r2 := 0#22, r3 := 0#23 }

/-- spec/41_keystream_generator.md R82: GEN n with a key loaded returns the next n keystream bits and moves the registers n
steps; without a key it fails with NoKey at the first command; GEN 0 does nothing. -/
def Obligations.GenReturnsTheNextBits : Prop :=
  (∀ (n : Nat) (s : State), s.kv = true →
    gen n s = some ({ s with
      regs := clockAllN n s.regs,
      out := s.out ++ (keystream n s.regs).map (fun z => { st := .ok, data := if z then 1#16 else 0#16 }) },
      .ok (keystream n s.regs))) ∧
  (∀ (n : Nat) (s : State), s.kv = false →
    gen (n + 1) s = some ({ s with out := s.out ++ [{ st := .noKey, data := 0#16 }] }, .error .noKey)) ∧
  (∀ s : State, gen 0 s = some (s, .ok []))

/-- spec/41_keystream_generator.md R83: two independent RESET and GEN n with the same key yield the same bits, and GEN of the
parts of any split, one after another, is GEN of their sum. -/
def Obligations.KeystreamIsDeterministicAndChunkInvariant : Prop :=
  (∀ (s t : State) (n : Nat), s.kv = true → t.kv = true → s.k = t.k →
    ∃ s1 t1 s2 t2 r bits, issue (encode .reset) s = some (s1, r) ∧ issue (encode .reset) t = some (t1, r) ∧
      gen n s1 = some (s2, .ok bits) ∧ gen n t1 = some (t2, .ok bits)) ∧
  (∀ (parts : List Nat) (s : State), genParts parts s = gen parts.sum s)

/-! Key loading. -/

/-- spec/42_key_scheduler.md R92, R93: the registers start at zero; round i clocks all by majority and then XORs key[i] =
K[63 - i] into bit 0 of each register, whether it was clocked or not; the result is that after 64 rounds. -/
def Obligations.KeyLoadingRounds : Prop :=
  ∀ key : Key, keyRounds key 0 = { r1 := 0#19, r2 := 0#22, r3 := 0#23 } ∧ initRegs key = keyRounds key 64 ∧
    ∀ i, i < 64 →
      keyRounds key (i + 1) =
        { r1 := (clockAll (keyRounds key i)).r1 ^^^ (BitVec.ofBool (key.getLsbD (63 - i))).setWidth 19
          r2 := (clockAll (keyRounds key i)).r2 ^^^ (BitVec.ofBool (key.getLsbD (63 - i))).setWidth 22
          r3 := (clockAll (keyRounds key i)).r3 ^^^ (BitVec.ofBool (key.getLsbD (63 - i))).setWidth 23 }

/-- spec/42_key_scheduler.md R103: rounds 0 to 7 shift the first key bits in plainly; after round 8 the heads are key[8],
key[8] and key[0] XOR key[8]. -/
def Obligations.FirstRoundsShiftTheKeyIn : Prop :=
  (∀ (key : Key) (i : Nat), i ≤ 7 →
    keyRounds key (i + 1) =
      { r1 := (key >>> (63 - i)).setWidth 19
        r2 := (key >>> (63 - i)).setWidth 22
        r3 := (key >>> (63 - i)).setWidth 23 }) ∧
  (∀ key : Key, (keyRounds key 9).r1.getLsbD 0 = keyBit key 8 ∧ (keyRounds key 9).r2.getLsbD 0 = keyBit key 8 ∧
    (keyRounds key 9).r3.getLsbD 0 = (keyBit key 0 ^^ keyBit key 8))

/-! The commands: completion and effect, with everything else of the state unchanged. -/

/-- spec/42_key_scheduler.md R95: SETKEY always succeeds; K, R1, R2, R3 and KV are written, W and the rest are not; setting
the key already loaded is RESET. -/
def Obligations.SetkeyLoadsTheKey : Prop :=
  ∀ (key : Key) (s : State),
    exec (.setkey key) s = .next { s with
      k := key
      regs := initRegs key
      kv := true
      out := s.out ++ [{ st := .ok, data := 0#16 }] } ∧
    (s.kv = true → exec (.setkey s.k) s = exec .reset s)

/-- spec/42_key_scheduler.md R96: RESET with a key loaded returns R1, R2, R3 to INITREGS(K) and changes nothing else. -/
def Obligations.ResetCompletesWithAKey : Prop :=
  ∀ s : State, s.kv = true →
    exec .reset s = .next { s with
      regs := initRegs s.k
      out := s.out ++ [{ st := .ok, data := 0#16 }] }

/-- spec/41_keystream_generator.md R81: NEXTBIT with a key loaded steps the registers once and answers the XOR of the tails
after the step; nothing else changes. -/
def Obligations.NextbitCompletesWithAKey : Prop :=
  ∀ s : State, s.kv = true →
    exec .nextbit s = .next { s with
      regs := clockAll s.regs
      out := s.out ++ [{
        st := .ok
        data := if ((clockAll s.regs).r1.getLsbD 18 ^^ (clockAll s.regs).r2.getLsbD 21 ^^ (clockAll s.regs).r3.getLsbD 22)
          then 1#16 else 0#16 }] }

/-- spec/43_sample_cipher.md R112: START of a supported width with a key loaded writes W and returns R1, R2, R3 to
INITREGS(K); nothing else changes. -/
def Obligations.StartCompletesWithAKey : Prop :=
  ∀ (s : State) (width : Arg), s.kv = true → width = 1#64 ∨ width = 2#64 →
    exec (.start width) s = .next { s with
      w := width.setWidth 2
      regs := initRegs s.k
      out := s.out ++ [{ st := .ok, data := 0#16 }] }

/-- spec/43_sample_cipher.md R115, R117: XFORM of a one-byte sample steps the registers once and answers the byte, inverted
when the keystream bit is 1; nothing else changes. -/
def Obligations.XformCompletesOnOneByteSamples : Prop :=
  ∀ (s : State) (sample : Data), s.kv = true → s.w = 1#2 → sample.toNat ≤ 255 →
    exec (.xform sample) s = .next { s with
      regs := clockAll s.regs
      out := s.out ++ [{
        st := .ok
        data := if outBit (clockAll s.regs) then sample ^^^ 0x00FF#16 else sample }] }

/-- spec/43_sample_cipher.md R115, R117: XFORM of a two-byte sample steps the registers once and answers the sample, its 15
low bits inverted when the keystream bit is 1; nothing else changes. -/
def Obligations.XformCompletesOnTwoByteSamples : Prop :=
  ∀ (s : State) (sample : Data), s.kv = true → s.w = 2#2 →
    exec (.xform sample) s = .next { s with
      regs := clockAll s.regs
      out := s.out ++ [{
        st := .ok
        data := if outBit (clockAll s.regs) then sample ^^^ 0x7FFF#16 else sample }] }

/-- spec/60_exceptions.md R137: which status each command word reports, the first condition of the priority order in the
rule's table; every word is answered with exactly one response. -/
def Obligations.EveryWordReportsTheFirstCondition : Prop :=
  ∀ (s : State) (op : Opcode) (arg : Arg) (rest : List HostEvent), s.input = .command (op ++ arg) :: rest →
    ∃ t r, step s = .next t ∧ t.out = s.out ++ [r] ∧
      r.st =
        if op = 0x01#8 then Status.ok
        else if op = 0x02#8 ∨ op = 0x03#8 then
          if arg ≠ 0#64 then .illegalCommand else if s.kv = false then .noKey else .ok
        else if op = 0x04#8 then
          if arg ≠ 1#64 ∧ arg ≠ 2#64 then .unsupportedFormatError else if s.kv = false then .noKey else .ok
        else if op = 0x05#8 then
          if arg.extractLsb' 16 48 ≠ 0#48 then .illegalCommand
          else if s.kv = false then .noKey
          else if s.w = 0#2 then .noFormat
          else if s.w = 1#2 ∧ arg.extractLsb' 8 8 ≠ 0#8 then .sampleRange
          else .ok
        else .illegalCommand

/-- spec/60_exceptions.md R135: a command that answers anything but OK, the decoder's IllegalCommand included, changes none
of the six items and answers DATA 0. -/
def Obligations.ErrorsChangeNothing : Prop :=
  ∀ (s t : State) (cw : CommandWord) (rest : List HostEvent) (r : Response),
    s.input = .command cw :: rest → step s = .next t → t.out = s.out ++ [r] → r.st ≠ .ok →
    r.data = 0#16 ∧ t = { s with input := rest, out := s.out ++ [r] }

/-- spec/60_exceptions.md R131, R133: the block never answers ValidationError or ProcessingError. -/
def Obligations.BlockNeverAnswersTheHostsStatuses : Prop :=
  ∀ (s t : State) (r : Response), step s = .next t → t.out = s.out ++ [r] →
    r.st ≠ .validationError ∧ r.st ≠ .processingError

/-- spec/30_encoding.md R52: DATA per command: 0 on every error and for SETKEY, RESET and START, 0 or 1 for NEXTBIT, at most
255 for XFORM under W = 1. -/
def Obligations.DataFieldPerCommand : Prop :=
  ∀ (i : Instr) (s t : State) (r : Response), exec i s = .next t → t.out = s.out ++ [r] →
    (r.st ≠ .ok → r.data = 0#16) ∧
    (match i with
      | .setkey _ => r.data = 0#16
      | .reset => r.data = 0#16
      | .start _ => r.data = 0#16
      | .nextbit => r.data = 0#16 ∨ r.data = 1#16
      | .xform _ => s.w = 1#2 → r.data.toNat ≤ 255)

/-- spec/10_state.md R17: who may write what. K changes only by SETKEY, W only by START and only to 1 or 2, KV only by SETKEY
and only to 1; R1, R2, R3 change only by INITREGS in SETKEY, RESET and START and by one CLOCKALL in NEXTBIT and XFORM. -/
def Obligations.OnlyTheListedCommandsWriteEachItem : Prop :=
  ∀ (i : Instr) (s t : State), exec i s = .next t →
    (t.k = s.k ∨ ∃ key, i = .setkey key ∧ t.k = key) ∧
    (t.w = s.w ∨ ∃ width, i = .start width ∧ (t.w = 1#2 ∨ t.w = 2#2)) ∧
    (t.kv = s.kv ∨ ∃ key, i = .setkey key ∧ t.kv = true) ∧
    (t.regs = s.regs
      ∨ ((i = .reset ∨ (∃ key, i = .setkey key) ∨ ∃ width, i = .start width) ∧ t.regs = initRegs t.k)
      ∨ ((i = .nextbit ∨ ∃ sample, i = .xform sample) ∧ t.regs = clockAll s.regs)) ∧
    t.input = s.input ∧ t.free = s.free

/-- spec/20_memory.md R35: SETKEY, RESET and START are idempotent on the six items. -/
def Obligations.KeyLoadingCommandsAreIdempotent : Prop :=
  ∀ (i : Instr) (s t u : State), (i = .reset ∨ (∃ key, i = .setkey key) ∨ ∃ width, i = .start width) →
    exec i s = .next t → exec i t = .next u → t.SameBlock u

/-- spec/42_key_scheduler.md R102, in the model's reading (DEDUCED, log 12: "anything that succeeds" leaves the key loaded):
whatever happened before, RESET and then GEN n returns the bits that SETKEY of the key loaded now and then GEN n returns. -/
def Obligations.ResetReplaysTheKeystreamOfTheKey : Prop :=
  ∀ (s t : State) (n : Nat), s.kv = true →
    ∃ s1 s2 t1 t2 r bits, issue (encode .reset) s = some (s1, r) ∧ gen n s1 = some (s2, .ok bits) ∧
      issue (encode (.setkey s.k)) t = some (t1, r) ∧ gen n t1 = some (t2, .ok bits) ∧
      s2.regs = t2.regs ∧ bits = keystream n (initRegs s.k)

/-! The whole machine. -/

/-- Every step of every state ends in a next state. For a command word, spec/70_reset_and_hazards.md R165 and
spec/10_state.md R23; that a failing command is a next state and nothing faults or refuses is the model's reading (DEDUCED,
log 11), and so is the step of an idle block (DEDUCED, log 5). -/
def Obligations.EveryStepEndsInANextState : Prop :=
  ∀ s : State, ∃ t, step s = .next t

/-- spec/30_encoding.md R50, spec/20_memory.md R36: serving all the host's events takes one step each, keeps the responses
already given, and adds exactly one response per command and none per HRESET. That HRESET keeps the further events and the
responses received, and takes a step of its own without a response, is the model's reading (DEDUCED, log 7). -/
def Obligations.ExactlyOneResponsePerCommand : Prop :=
  ∀ s : State, ∃ t, core.run s.input.length s = .next t ∧ t.input = [] ∧ s.out <+: t.out ∧
    t.out.length = s.out.length + commandCount s.input

/-- spec/10_state.md R15, spec/60_exceptions.md R137 (note), spec/41_keystream_generator.md R85: every step keeps W legal, a
format only with a key, and the registers at a keystream position of the loaded key. -/
def Obligations.EveryStepKeepsTheStateLegal : Prop :=
  ∀ s t : State, s.Legal → step s = .next t → t.Legal

/-- The invariant of EveryStepKeepsTheStateLegal holds after HRESET. -/
def Obligations.ResetStateIsLegal : Prop :=
  State.reset.Legal

/-! Samples. -/

/-- spec/00_scope.md 4.1: xorZ does not depend on the width N chosen, among those that hold both operands. -/
def Obligations.IntegerXorDoesNotDependOnTheWidth : Prop :=
  ∀ (n : Nat) (a b : Int), -(2 ^ n) ≤ a → a < 2 ^ n → -(2 ^ n) ≤ b → b < 2 ^ n → xorAt (n + 1) a b = xorZ a b

/-- spec/43_sample_cipher.md R114: CLAMP of every integer. -/
def Obligations.ClampOfEveryInteger : Prop :=
  ∀ raw : Int,
    clamp raw 1#2 = (if raw < 0 then 0 else if 255 < raw then 255 else raw) ∧
    clamp raw 2#2 = (if raw < -32768 then -32768 else if 32767 < raw then 32767 else raw)

/-- spec/43_sample_cipher.md R117: the closed forms of the transform for in-range samples, as numbers and as fields. -/
def Obligations.TransformClosedForms : Prop :=
  (∀ v : Int, 0 ≤ v → v ≤ 255 → transform 1#2 false v = v ∧ transform 1#2 true v = 255 - v) ∧
  (∀ v : Int, -32768 ≤ v → v ≤ 32767 → transform 2#2 false v = v ∧
    transform 2#2 true v = if 0 ≤ v then 32767 - v else -32769 - v) ∧
  (∀ f : Data, f.toNat ≤ 255 → sampleData 1#2 (transform 1#2 true (Int.ofNat f.toNat)) = f ^^^ 0x00FF#16) ∧
  (∀ f : Data, sampleData 2#2 (transform 2#2 true f.toInt) = f ^^^ 0x7FFF#16)

/-- spec/43_sample_cipher.md R118: for a legal sample MASKXOR stays in the valid range, so CLAMP never changes it. -/
def Obligations.ClampNeverChangesAnInRangeSample : Prop :=
  ∀ (w : WidthReg) (k : Bool) (v : Int), Supported w → inRange w v →
    inRange w (maskXor v k (maxValue w)) ∧ clamp (maskXor v k (maxValue w)) w = maskXor v k (maxValue w)

/-- spec/43_sample_cipher.md R119: for a fixed keystream bit the transform is an involution. -/
def Obligations.TransformIsAnInvolution : Prop :=
  ∀ (w : WidthReg) (k : Bool) (v : Int), Supported w → inRange w v → transform w k (transform w k v) = v

/-- spec/20_memory.md R31, spec/30_encoding.md R49, R52, R57: a sample in range, encoded as XFORM.B or XFORM.H, is read back
by the block under its width, and a result in range is read back by the host. -/
def Obligations.SamplesCrossTheBoundaryUnchanged : Prop :=
  (∀ v : Int, inRange 1#2 v → sampleOperand 1#2 (BitVec.ofInt 16 v) = .ok v ∧ readData 1#2 (sampleData 1#2 v) = v ∧
    (AsmLine.xformB v).assemble = some (encode (.xform (BitVec.ofInt 16 v)))) ∧
  (∀ v : Int, inRange 2#2 v → sampleOperand 2#2 (BitVec.ofInt 16 v) = .ok v ∧ readData 2#2 (sampleData 2#2 v) = v ∧
    (AsmLine.xformH v).assemble = some (encode (.xform (BitVec.ofInt 16 v))))

/-- spec/20_memory.md R41, spec/43_sample_cipher.md R121: an XFORM that succeeds makes the step NEXTBIT would make and uses
the bit it would return. -/
def Obligations.XformUsesTheBitNextbitWouldReturn : Prop :=
  ∀ (s t u : State) (sample : Data) (d z : Data), exec (.xform sample) s = .next t → exec .nextbit s = .next u →
    t.out = s.out ++ [{ st := .ok, data := d }] → u.out = s.out ++ [{ st := .ok, data := z }] →
    t.regs = u.regs ∧ ∃ v, sampleOperand s.w sample = .ok v ∧ d = sampleData s.w (transform s.w (z.getLsbD 0) v)

/-- spec/43_sample_cipher.md R121: PROCESS does not depend on CHUNK, and a host that draws the keystream first and transforms
the samples itself gets the same output. -/
def Obligations.ProcessDoesNotDependOnTheChunkSize : Prop :=
  (∀ (width : Arg) (c d : ChunkSize) (buf : List Int) (s : State), process width c buf s = process width d buf s) ∧
  (∀ (c : ChunkSize) (buf : List Int) (s : State), s.kv = true →
    ((∀ v ∈ buf, inRange 1#2 v) → ∃ t, process 1#64 c buf s = some (t, .ok (transformBuffer 1#2 s.k buf))) ∧
    ((∀ v ∈ buf, inRange 2#2 v) → ∃ t, process 2#64 c buf s = some (t, .ok (transformBuffer 2#2 s.k buf))))

/-- spec/43_sample_cipher.md R123: PROCESS of the output of PROCESS, with the same key, is the buffer, at every amplitude and
for both widths. -/
def Obligations.ProcessTwiceRestoresTheBuffer : Prop :=
  ∀ (w : WidthReg) (c d : ChunkSize) (buf : List Int) (s : State), Supported w → s.kv = true → (∀ v ∈ buf, inRange w v) →
    ∃ t out u, process (w.setWidth 64) c buf s = some (t, .ok out) ∧
      process (w.setWidth 64) d out t = some (u, .ok buf)

/-- spec/43_sample_cipher.md R124: PROCESS returns one sample per sample, each in the valid range of the width. -/
def Obligations.ProcessOutputHasTheShapeOfTheInput : Prop :=
  ∀ (w : WidthReg) (c : ChunkSize) (buf : List Int) (s : State), Supported w → s.kv = true → (∀ v ∈ buf, inRange w v) →
    ∃ t out, process (w.setWidth 64) c buf s = some (t, .ok out) ∧ out.length = buf.length ∧ ∀ v ∈ out, inRange w v

/-- spec/43_sample_cipher.md R120: how PROCESS fails. An unsupported width or a missing key gives no output and no state
change; a one-byte sample from 256 to 65535 fails with SampleRange after the samples before it have moved the generator. How
the host encodes such a sample, as ARG = v, is the model's choice (DESIGN CHOICE, log 8). -/
def Obligations.ProcessFailsFast : Prop :=
  (∀ (width : Arg) (c : ChunkSize) (buf : List Int) (s : State), width ≠ 1#64 → width ≠ 2#64 →
    ∃ t, process width c buf s = some (t, .error .unsupportedFormatError) ∧ t.SameBlock s) ∧
  (∀ (width : Arg) (c : ChunkSize) (buf : List Int) (s : State), width = 1#64 ∨ width = 2#64 → s.kv = false →
    ∃ t, process width c buf s = some (t, .error .noKey) ∧ t.SameBlock s) ∧
  (∀ (c : ChunkSize) (pre post : List Int) (bad : Int) (s : State), s.kv = true → (∀ v ∈ pre, inRange 1#2 v) →
    255 < bad → bad ≤ 65535 →
    ∃ t, process 1#64 c (pre ++ bad :: post) s = some (t, .error .sampleRange) ∧
      t.regs = clockAllN pre.length (initRegs s.k))

/-! Key exchange format. -/

/-- spec/42_key_scheduler.md R97: HEX2KEY fails exactly on a length other than 16 or a character that is no hexadecimal
digit, and character j gives the nibble K[63 - 4j : 60 - 4j]. The digits are '0' to '9' with the values 0 to 9, 'a' to 'f' and
'A' to 'F' with the values 10 to 15, and no other character. -/
def Obligations.HexStringsDecodeNibbleByNibble : Prop :=
  (['0', '1', '2', '3', '4', '5', '6', '7', '8', '9'].map hexValue
      = [some 0, some 1, some 2, some 3, some 4, some 5, some 6, some 7, some 8, some 9] ∧
    ['a', 'b', 'c', 'd', 'e', 'f'].map hexValue = [some 10, some 11, some 12, some 13, some 14, some 15] ∧
    ['A', 'B', 'C', 'D', 'E', 'F'].map hexValue = [some 10, some 11, some 12, some 13, some 14, some 15]) ∧
  (∀ c : Char, c ∉ ['0', '1', '2', '3', '4', '5', '6', '7', '8', '9', 'a', 'b', 'c', 'd', 'e', 'f', 'A', 'B', 'C', 'D', 'E',
    'F'] → hexValue c = none) ∧
  (∀ str : List Char, hex2key str = none ↔ str.length ≠ 16 ∨ ∃ c ∈ str, hexValue c = none) ∧
  (∀ (str : List Char) (key : Key) (j : Nat) (c : Char), hex2key str = some key → str[j]? = some c →
    hexValue c = some (key.extractLsb' (60 - 4 * j) 4).toNat)

/-- spec/42_key_scheduler.md R99: KEY2HEX then HEX2KEY is the key; HEX2KEY then KEY2HEX is the string with upper-case digits
replaced by lower-case ones, so a valid lower-case string comes back as it is. -/
def Obligations.HexCodecRoundTrips : Prop :=
  (∀ key : Key, hex2key (key2hex key) = some key) ∧
  (∀ (str : List Char) (key : Key), hex2key str = some key → key2hex key = str.map lowerHex) ∧
  (∀ str : List Char, str.length = 16 → (∀ c ∈ str, c ∈ hexDigits) → ∃ key, hex2key str = some key ∧ key2hex key = str)

/-- spec/42_key_scheduler.md R100: SETKEYHEX of a malformed string reports ValidationError and issues no command; of a valid
string it is SETKEY of the key. -/
def Obligations.SetkeyhexValidatesBeforeSetkey : Prop :=
  ∀ (str : List Char) (s : State),
    (hex2key str = none → setkeyhex str s = some (s, .validationError)) ∧
    (∀ key, hex2key str = some key → ∃ t, issue (encode (.setkey key)) s = some (t, { st := .ok, data := 0#16 }) ∧
      setkeyhex str s = some (t, .ok) ∧ t.k = key ∧ t.regs = initRegs key ∧ t.kv = true)
end

