-- ==== Sys2Proof/Laws/State.lean ====
section
/-! SUPPORT. One lemma per field per update of State, so that no proof unfolds a record update. -/

namespace Sys2Proof.Machine

@[simp] theorem State.respond_regs (s : State) (st : Status) (d : Data) : (s.respond st d).regs = s.regs := rfl
@[simp] theorem State.respond_k (s : State) (st : Status) (d : Data) : (s.respond st d).k = s.k := rfl
@[simp] theorem State.respond_w (s : State) (st : Status) (d : Data) : (s.respond st d).w = s.w := rfl
@[simp] theorem State.respond_kv (s : State) (st : Status) (d : Data) : (s.respond st d).kv = s.kv := rfl
@[simp] theorem State.respond_input (s : State) (st : Status) (d : Data) : (s.respond st d).input = s.input := rfl
@[simp] theorem State.respond_out (s : State) (st : Status) (d : Data) : (s.respond st d).out = s.out ++ [{ st := st, data := d }] := rfl
@[simp] theorem State.respond_free (s : State) (st : Status) (d : Data) : (s.respond st d).free = s.free := rfl

@[simp] theorem State.raise_regs (s : State) (st : Status) : (s.raise st).regs = s.regs := rfl
@[simp] theorem State.raise_k (s : State) (st : Status) : (s.raise st).k = s.k := rfl
@[simp] theorem State.raise_w (s : State) (st : Status) : (s.raise st).w = s.w := rfl
@[simp] theorem State.raise_kv (s : State) (st : Status) : (s.raise st).kv = s.kv := rfl
@[simp] theorem State.raise_input (s : State) (st : Status) : (s.raise st).input = s.input := rfl
@[simp] theorem State.raise_out (s : State) (st : Status) : (s.raise st).out = s.out ++ [{ st := st, data := 0#16 }] := rfl
@[simp] theorem State.raise_free (s : State) (st : Status) : (s.raise st).free = s.free := rfl

@[simp] theorem State.setRegs_regs (s : State) (g : Regs) : (s.setRegs g).regs = g := rfl
@[simp] theorem State.setRegs_k (s : State) (g : Regs) : (s.setRegs g).k = s.k := rfl
@[simp] theorem State.setRegs_w (s : State) (g : Regs) : (s.setRegs g).w = s.w := rfl
@[simp] theorem State.setRegs_kv (s : State) (g : Regs) : (s.setRegs g).kv = s.kv := rfl
@[simp] theorem State.setRegs_input (s : State) (g : Regs) : (s.setRegs g).input = s.input := rfl
@[simp] theorem State.setRegs_out (s : State) (g : Regs) : (s.setRegs g).out = s.out := rfl
@[simp] theorem State.setRegs_free (s : State) (g : Regs) : (s.setRegs g).free = s.free := rfl

@[simp] theorem State.setKey_regs (s : State) (key : Key) : (s.setKey key).regs = s.regs := rfl
@[simp] theorem State.setKey_k (s : State) (key : Key) : (s.setKey key).k = key := rfl
@[simp] theorem State.setKey_w (s : State) (key : Key) : (s.setKey key).w = s.w := rfl
@[simp] theorem State.setKey_kv (s : State) (key : Key) : (s.setKey key).kv = s.kv := rfl
@[simp] theorem State.setKey_input (s : State) (key : Key) : (s.setKey key).input = s.input := rfl
@[simp] theorem State.setKey_out (s : State) (key : Key) : (s.setKey key).out = s.out := rfl
@[simp] theorem State.setKey_free (s : State) (key : Key) : (s.setKey key).free = s.free := rfl

@[simp] theorem State.setWidth_regs (s : State) (v : WidthReg) : (s.setWidth v).regs = s.regs := rfl
@[simp] theorem State.setWidth_k (s : State) (v : WidthReg) : (s.setWidth v).k = s.k := rfl
@[simp] theorem State.setWidth_w (s : State) (v : WidthReg) : (s.setWidth v).w = v := rfl
@[simp] theorem State.setWidth_kv (s : State) (v : WidthReg) : (s.setWidth v).kv = s.kv := rfl
@[simp] theorem State.setWidth_input (s : State) (v : WidthReg) : (s.setWidth v).input = s.input := rfl
@[simp] theorem State.setWidth_out (s : State) (v : WidthReg) : (s.setWidth v).out = s.out := rfl
@[simp] theorem State.setWidth_free (s : State) (v : WidthReg) : (s.setWidth v).free = s.free := rfl

@[simp] theorem State.setKeyValid_regs (s : State) : (s.setKeyValid).regs = s.regs := rfl
@[simp] theorem State.setKeyValid_k (s : State) : (s.setKeyValid).k = s.k := rfl
@[simp] theorem State.setKeyValid_w (s : State) : (s.setKeyValid).w = s.w := rfl
@[simp] theorem State.setKeyValid_kv (s : State) : (s.setKeyValid).kv = true := rfl
@[simp] theorem State.setKeyValid_input (s : State) : (s.setKeyValid).input = s.input := rfl
@[simp] theorem State.setKeyValid_out (s : State) : (s.setKeyValid).out = s.out := rfl
@[simp] theorem State.setKeyValid_free (s : State) : (s.setKeyValid).free = s.free := rfl

@[simp] theorem State.hreset_regs (s : State) : (s.hreset).regs = { r1 := Config.hresetR1 s.free, r2 := Config.hresetR2 s.free, r3 := Config.hresetR3 s.free } := rfl
@[simp] theorem State.hreset_k (s : State) : (s.hreset).k = Config.hresetK s.free := rfl
@[simp] theorem State.hreset_w (s : State) : (s.hreset).w = 0#2 := rfl
@[simp] theorem State.hreset_kv (s : State) : (s.hreset).kv = false := rfl
@[simp] theorem State.hreset_input (s : State) : (s.hreset).input = s.input := rfl
@[simp] theorem State.hreset_out (s : State) : (s.hreset).out = s.out := rfl
@[simp] theorem State.hreset_free (s : State) : (s.hreset).free = s.free + 1 := rfl

@[simp] theorem State.place_regs (s : State) (e : HostEvent) : (s.place e).regs = s.regs := rfl
@[simp] theorem State.place_k (s : State) (e : HostEvent) : (s.place e).k = s.k := rfl
@[simp] theorem State.place_w (s : State) (e : HostEvent) : (s.place e).w = s.w := rfl
@[simp] theorem State.place_kv (s : State) (e : HostEvent) : (s.place e).kv = s.kv := rfl
@[simp] theorem State.place_input (s : State) (e : HostEvent) : (s.place e).input = e :: s.input := rfl
@[simp] theorem State.place_out (s : State) (e : HostEvent) : (s.place e).out = s.out := rfl
@[simp] theorem State.place_free (s : State) (e : HostEvent) : (s.place e).free = s.free := rfl

@[simp] theorem State.keyMissing_eq (s : State) : s.keyMissing = !s.kv := rfl
@[simp] theorem State.formatMissing_eq (s : State) : s.formatMissing = (s.w == 0#2) := rfl

/-- Taking the next event: there is none exactly when the stream is empty. -/
@[simp] theorem State.nextEvent_nil (s : State) (h : s.input = []) : s.nextEvent = none := by
  simp [State.nextEvent, h]

@[simp] theorem State.nextEvent_cons (s : State) (e : HostEvent) (rest : List HostEvent) (h : s.input = e :: rest) :
    s.nextEvent = some (e, { s with input := rest }) := by
  simp [State.nextEvent, h]

/-- The host's event placed first is the one served next, on the state as it was. -/
@[simp] theorem State.nextEvent_place (s : State) (e : HostEvent) : (s.place e).nextEvent = some (e, s) := rfl

end Sys2Proof.Machine
end

