-- ==== Sys2Proof/Laws/Ops.lean ====
section
/-! SUPPORT. What each shared operation and each command can do, said once: the cases of an answer, for proofs to cite instead
of unfolding the meaning. -/

namespace Sys2Proof.Machine

/-- Only the response log differs after an answer. -/
theorem State.respond_eq (s : State) (st : Status) (d : Data) :
    s.respond st d = { s with out := s.out ++ [{ st := st, data := d }] } := rfl

/-- An error is an answer with DATA 0. -/
theorem State.raise_eq (s : State) (st : Status) :
    s.raise st = { s with out := s.out ++ [{ st := st, data := 0#16 }] } := rfl

/-- The widths START accepts. -/
theorem startWidth_ok_iff (width : Arg) (w : WidthReg) :
    startWidth width = .ok w ↔ (width = 1#64 ∧ w = 1#2) ∨ (width = 2#64 ∧ w = 2#2) := by
  unfold startWidth
  split
  · rename_i h; subst h; constructor
    · intro h; cases h; exact .inl ⟨rfl, rfl⟩
    · rintro (⟨_, rfl⟩ | ⟨h, _⟩)
      · rfl
      · exact absurd h (by decide)
  · split
    · rename_i h1 h; subst h; constructor
      · intro h; cases h; exact .inr ⟨rfl, rfl⟩
      · rintro (⟨h, _⟩ | ⟨_, rfl⟩)
        · exact absurd h (by decide)
        · rfl
    · rename_i h1 h2; constructor
      · intro h; cases h
      · rintro (⟨h, _⟩ | ⟨h, _⟩)
        · exact absurd h h1
        · exact absurd h h2

/-- The one error of START's width check. -/
theorem startWidth_error (width : Arg) (e : Status) (h : startWidth width = .error e) :
    e = .unsupportedFormatError ∧ width ≠ 1#64 ∧ width ≠ 2#64 := by
  unfold startWidth at h
  split at h
  · cases h
  · split at h
    · cases h
    · rename_i h1 h2; cases h; exact ⟨rfl, h1, h2⟩

/-- The one error of XFORM's operand: a one-byte sample above 255. -/
theorem sampleOperand_error (w : WidthReg) (f : Data) (e : Status) (h : sampleOperand w f = .error e) :
    e = .sampleRange ∧ w = 1#2 ∧ f.extractLsb' 8 8 ≠ 0#8 := by
  unfold sampleOperand at h
  split at h
  · split at h
    · rename_i hw hf; cases h; exact ⟨rfl, hw, hf⟩
    · cases h
  · cases h

/-- The operand of XFORM where there is one: the low byte under W = 1, the signed field otherwise. -/
theorem sampleOperand_ok (w : WidthReg) (f : Data) (v : Int) (h : sampleOperand w f = .ok v) :
    (w = 1#2 ∧ f.extractLsb' 8 8 = 0#8 ∧ v = Int.ofNat (f.extractLsb' 0 8).toNat) ∨ (w ≠ 1#2 ∧ v = f.toInt) := by
  unfold sampleOperand at h
  split at h
  · split at h
    · cases h
    · rename_i hw hf; cases h; exact .inl ⟨hw, by simpa using hf, rfl⟩
  · rename_i hw; cases h; exact .inr ⟨hw, rfl⟩

/-- The two cases of a register in a CLOCKALL step: clocked, or skipped with its value kept. -/
theorem clockAll_cases (g : Regs) :
    ((clockAll g).r1 = clock g.r1 taps1 ∧ clockBit1 g.r1 = majority g
      ∨ (clockAll g).r1 = g.r1 ∧ clockBit1 g.r1 ≠ majority g) ∧
    ((clockAll g).r2 = clock g.r2 taps2 ∧ clockBit2 g.r2 = majority g
      ∨ (clockAll g).r2 = g.r2 ∧ clockBit2 g.r2 ≠ majority g) ∧
    ((clockAll g).r3 = clock g.r3 taps3 ∧ clockBit3 g.r3 = majority g
      ∨ (clockAll g).r3 = g.r3 ∧ clockBit3 g.r3 ≠ majority g) := by
  refine ⟨?_, ?_, ?_⟩ <;> unfold clockAll <;> dsimp only <;> split <;> simp_all

/-- What a command can do: an error under its condition (spec/60_exceptions.md R137), or its effect. -/
inductive ExecCase (i : Instr) (s : State) : State → Prop where
  | unsupported (width : Arg) (hi : i = .start width) (hw : width ≠ 1#64 ∧ width ≠ 2#64) :
      ExecCase i s (s.raise .unsupportedFormatError)
  | noKey (hk : s.kv = false)
      (hi : i = .reset ∨ i = .nextbit ∨ (∃ width, i = .start width ∧ (width = 1#64 ∨ width = 2#64))
        ∨ ∃ sample, i = .xform sample) :
      ExecCase i s (s.raise .noKey)
  | noFormat (sample : Data) (hi : i = .xform sample) (hk : s.kv = true) (hw : s.w = 0#2) :
      ExecCase i s (s.raise .noFormat)
  | sampleRange (sample : Data) (hi : i = .xform sample) (hk : s.kv = true) (hw : s.w = 1#2)
      (hf : sample.extractLsb' 8 8 ≠ 0#8) :
      ExecCase i s (s.raise .sampleRange)
  | setkey (key : Key) (hi : i = .setkey key) :
      ExecCase i s ((((s.setKey key).setRegs (initRegs key)).setKeyValid).respond .ok 0#16)
  | reset (hi : i = .reset) (hk : s.kv = true) : ExecCase i s ((s.setRegs (initRegs s.k)).respond .ok 0#16)
  | nextbit (hi : i = .nextbit) (hk : s.kv = true) :
      ExecCase i s ((s.setRegs (clockAll s.regs)).respond .ok (bitData (outBit (clockAll s.regs))))
  | start (width : Arg) (w : WidthReg) (hi : i = .start width) (hk : s.kv = true) (hw : startWidth width = .ok w) :
      ExecCase i s (((s.setWidth w).setRegs (initRegs s.k)).respond .ok 0#16)
  | xform (sample : Data) (v : Int) (hi : i = .xform sample) (hk : s.kv = true) (hw : s.w ≠ 0#2)
      (hv : sampleOperand s.w sample = .ok v) :
      ExecCase i s ((s.setRegs (clockAll s.regs)).respond .ok
        (sampleData s.w (transform s.w (outBit (clockAll s.regs)) v)))

/-- The inversion lemma of exec: whatever a command answers is one of the cases. -/
theorem exec_cases {i : Instr} {s t : State} (h : exec i s = .next t) : ExecCase i s t := by
  cases i with
  | setkey key => cases h; exact .setkey key rfl
  | reset =>
    simp only [exec, execReset] at h
    split at h <;> cases h
    · exact .noKey (by simp_all) (.inl rfl)
    · exact .reset rfl (by simp_all)
  | nextbit =>
    simp only [exec, execNextbit] at h
    split at h <;> cases h
    · exact .noKey (by simp_all) (.inr (.inl rfl))
    · exact .nextbit rfl (by simp_all)
  | start width =>
    simp only [exec, execStart] at h
    split at h
    · rename_i e he
      cases h
      obtain ⟨rfl, hw⟩ := startWidth_error _ _ he
      exact .unsupported width rfl hw
    · rename_i w hw
      split at h <;> cases h
      · refine .noKey (by simp_all) (.inr (.inr (.inl ⟨width, rfl, ?_⟩)))
        exact ((startWidth_ok_iff _ _).1 hw).imp And.left And.left
      · exact .start width w rfl (by simp_all) hw
  | xform sample =>
    simp only [exec, execXform] at h
    split at h
    · cases h; exact .noKey (by simp_all) (.inr (.inr (.inr ⟨sample, rfl⟩)))
    · rename_i hk
      split at h
      · rename_i hw
        cases h
        exact .noFormat sample rfl (by simpa using hk) (by simpa using hw)
      · rename_i hw
        split at h
        · rename_i e he
          cases h
          obtain ⟨rfl, h1, hf⟩ := sampleOperand_error _ _ _ he
          exact .sampleRange sample rfl (by simpa using hk) h1 hf
        · rename_i v hv
          cases h
          exact .xform sample v rfl (by simpa using hk) (by simpa using hw) hv

/-- What a step can do: hold the state, reset, run a command, or answer an illegal word. -/
inductive StepCase (s : State) : State → Prop where
  | idle (h : s.input = []) : StepCase s s
  | hreset (rest : List HostEvent) (h : s.input = .hreset :: rest) : StepCase s (State.hreset { s with input := rest })
  | command (cw : CommandWord) (rest : List HostEvent) (i : Instr) (t : State) (h : s.input = .command cw :: rest)
      (hd : decode cw = .ok i) (he : ExecCase i { s with input := rest } t) : StepCase s t
  | illegal (cw : CommandWord) (rest : List HostEvent) (e : DecodeError) (h : s.input = .command cw :: rest)
      (hd : decode cw = .error e) : StepCase s (State.raise { s with input := rest } .illegalCommand)

/-- The inversion lemma of step. -/
theorem step_cases {s t : State} (h : step s = .next t) : StepCase s t := by
  unfold step at h
  cases hs : s.input with
  | nil => simp [hs] at h; subst h; exact .idle hs
  | cons e rest =>
    rw [State.nextEvent_cons s e rest hs] at h
    cases e with
    | hreset => cases h; exact .hreset rest hs
    | command cw =>
      dsimp only at h
      cases hd : decode cw with
      | ok i => rw [hd] at h; exact .command cw rest i t hs hd (exec_cases h)
      | error e => rw [hd] at h; cases h; exact .illegal cw rest e hs hd

end Sys2Proof.Machine
end

