-- ==== Sys2Proof/Laws/HostSide.lean ====
section
/-! SUPPORT. What issuing a command from the host side can do, said once. -/

namespace Sys2Proof.Machine

/-- The step that serves a command placed first. -/
theorem step_place_command (s : State) (cw : CommandWord) :
    step (s.place (.command cw))
      = match decode cw with
        | .ok i => exec i s
        | .error _ => .next (s.raise .illegalCommand) := rfl

/-- A command issued by the host is one step, and its response is the last one given. -/
theorem issue_cases {cw : CommandWord} {s t : State} {r : Response} (h : issue cw s = some (t, r)) :
    step (s.place (.command cw)) = .next t ∧ t.out.getLast? = some r := by
  unfold issue at h
  split at h
  · rename_i u hu
    simp only [Option.map_eq_some_iff, Prod.mk.injEq] at h
    obtain ⟨r', hr, rfl, rfl⟩ := h
    exact ⟨hu, hr⟩
  · cases h
  · cases h

/-- Issuing a command whose step answers r. -/
theorem issue_of_step {cw : CommandWord} {s t : State} {r : Response} {log : List Response}
    (h : step (s.place (.command cw)) = .next t) (ho : t.out = log ++ [r]) : issue cw s = some (t, r) := by
  simp [issue, h, ho]

end Sys2Proof.Machine
end

