-- ==== Sys2Proof/Laws/PerInstr.lean ====
section
/-! SUPPORT. The family TableWord: the word of each command selects its own row of the opcode table
(spec/30_encoding.md R47). -/

namespace Sys2Proof.Laws.TableWord

/-- The encoded word of a command is well-formed and selects the row of its mnemonic. -/
def Statement (i : Instr) : Prop :=
  i.wellFormed = true ∧ ∃ r ∈ opcodeTable, r.mnemonic = i.mnemonic ∧ r.selects (encode i) = true

/-- Masking a word field by field. -/
theorem append_and (op m : Opcode) (arg n : Arg) : (op ++ arg) &&& (m ++ n) = (op &&& m) ++ (arg &&& n) := by
  apply BitVec.eq_of_getLsbD_eq
  intro j hj
  simp only [BitVec.getLsbD_and, BitVec.getLsbD_append]
  split <;> rfl

theorem setkey (key : Key) : Statement (.setkey key) := by
  refine ⟨rfl, _, List.mem_cons_self, rfl, ?_⟩
  show ((0x01#8 ++ key) &&& (0xFF#8 ++ 0#64) == (0x01#8 ++ 0#64 : BitVec 72)) = true
  rw [append_and, BitVec.and_zero]
  rfl

theorem reset : Statement .reset := ⟨rfl, by decide⟩

theorem nextbit : Statement .nextbit := ⟨rfl, by decide⟩

theorem start (width : Arg) : Statement (.start width) := by
  refine ⟨rfl, { mnemonic := "START", pattern := 0x040000000000000000#72, mask := 0xFF0000000000000000#72 },
    by decide, rfl, ?_⟩
  show ((0x04#8 ++ width) &&& (0xFF#8 ++ 0#64) == (0x04#8 ++ 0#64 : BitVec 72)) = true
  rw [append_and, BitVec.and_zero]
  rfl

theorem xform (sample : Data) : Statement (.xform sample) := by
  refine ⟨rfl, { mnemonic := "XFORM", pattern := 0x050000000000000000#72, mask := 0xFFFFFFFFFFFFFF0000#72 },
    by decide, rfl, ?_⟩
  show ((0x05#8 ++ sample.setWidth 64) &&& (0xFF#8 ++ 0xFFFFFFFFFFFF0000#64) == (0x05#8 ++ 0#64 : BitVec 72)) = true
  have h : (sample.setWidth 64 : BitVec 64) &&& 0xFFFFFFFFFFFF0000#64 = 0#64 := by
    have e : (0xFFFFFFFFFFFF0000#64 : BitVec 64) = 0xFFFFFFFFFFFF#48 ++ 0#16 := by decide
    have f : (sample.setWidth 64 : BitVec 64) = 0#48 ++ sample := by
      apply BitVec.eq_of_getLsbD_eq
      intro j hj
      simp only [BitVec.getLsbD_setWidth, BitVec.getLsbD_append]
      by_cases hj' : j < 16 <;> simp_all
    rw [e, f]
    apply BitVec.eq_of_getLsbD_eq
    intro j hj
    simp only [BitVec.getLsbD_and, BitVec.getLsbD_append]
    split <;> simp
  rw [append_and, h]
  rfl

end Sys2Proof.Laws.TableWord
end

