-- ==== Sys2Proof/Tests/Slice0.lean ====
section
/-! SUPPORT. Small tests. Expected values are those of spec/95_test_vectors.md, of the worked examples of the rules, or words
written out from spec/30_encoding.md; and one witness per statement with hypotheses. -/

namespace Sys2Proof.Tests

open Sys2Proof.Machine

/-! Well-formedness: an ill-formed term for each check. -/

theorem test_opcode_zero_ill_formed : (RawCommand.mk 0x00#8 0#64).wellFormed = false := by decide
theorem test_opcode_six_ill_formed : (RawCommand.mk 0x06#8 0#64).wellFormed = false := by decide
theorem test_reset_reserved_arg_ill_formed : (RawCommand.mk 0x02#8 1#64).wellFormed = false := by decide
theorem test_nextbit_reserved_arg_ill_formed : (RawCommand.mk 0x03#8 0x8000000000000000#64).wellFormed = false := by decide
theorem test_xform_reserved_arg_ill_formed : (RawCommand.mk 0x05#8 0x10000#64).wellFormed = false := by decide
theorem test_xform_well_formed : (RawCommand.mk 0x05#8 0xFFFF#64).wellFormed = true := by decide
theorem test_asm_start_ill_formed : (AsmLine.start (2 ^ 64)).wellFormed = false := by decide
theorem test_asm_xform_b_ill_formed : (AsmLine.xformB 256).wellFormed = false ∧ (AsmLine.xformB (-1)).wellFormed = false := by
  decide
theorem test_asm_xform_h_ill_formed :
    (AsmLine.xformH 32768).wellFormed = false ∧ (AsmLine.xformH (-32769)).wellFormed = false := by decide

/-! Decoding: words written out from spec/30_encoding.md R45 to R47 (OP in the first two digits, then ARG). -/

theorem test_decode_setkey : decode 0x01A5A5A5A5A5A5A5A5#72 = .ok (.setkey 0xA5A5A5A5A5A5A5A5#64) := by decide
theorem test_decode_reset : decode 0x020000000000000000#72 = .ok .reset := by decide
theorem test_decode_nextbit : decode 0x030000000000000000#72 = .ok .nextbit := by decide
theorem test_decode_start : decode 0x04FFFFFFFFFFFFFFFF#72 = .ok (.start 0xFFFFFFFFFFFFFFFF#64) := by decide
theorem test_decode_xform : decode 0x050000000000003039#72 = .ok (.xform 0x3039#16) := by decide
theorem test_decode_reserved_opcode : decode 0x060000000000000000#72 = .error (.reservedOpcode 0x06#8) := by decide
theorem test_decode_reserved_arg : decode 0x030000000000000001#72 = .error (.reservedArg 0x03#8) := by decide
theorem test_decode_table_word : decodeTableWord 72 0x020000000000000000 = some .reset := by decide

/-- Response words of program P5 rows 12 and 14 and P4 row 5: 0x20000, 0x70000, 0x0FFFF. -/
theorem test_response_words :
    Response.word { st := .unsupportedFormatError, data := 0#16 } = 0x20000#20 ∧
    Response.word { st := .sampleRange, data := 0#16 } = 0x70000#20 ∧
    Response.word { st := .ok, data := 0xFFFF#16 } = 0x0FFFF#20 := by decide

/-- ResponseWordHoldsStatusAndData, the reserved status numbers: both ends of 0x8 to 0xF. -/
theorem witness_reserved_status :
    8 ≤ ((0x80000#20 : ResponseWord).extractLsb' 16 4).toNat ∧ 8 ≤ ((0xFFFFF#20 : ResponseWord).extractLsb' 16 4).toNat := by
  decide

/-! Micro-operations (spec/95_test_vectors.md sections 2, 3 and 4). -/

theorem test_feedback_r1 : feedback 0x52000#19 taps1 = true ∧ feedback 0x72000#19 taps1 = false := by decide
theorem test_feedback_r3 : feedback 0x000080#23 taps3 = true ∧ feedback 0x600000#23 taps3 = false := by decide
theorem test_clock_r1 : clock 0x52000#19 taps1 = 0x24001#19 ∧ clock 0x07544#19 taps1 = 0x0EA89#19 := by decide
theorem test_clock_r2 : clock 0x300000#22 taps2 = 0x200000#22 ∧ clock 0x100000#22 taps2 = 0x200001#22 := by decide
theorem test_clock_r3 : clock 0x700080#23 taps3 = 0x600100#23 ∧ clock 0x400000#23 taps3 = 0x000001#23 := by decide
theorem test_clockall_r2_holds :
    clockAll { r1 := 0x40100#19, r2 := 0x200000#22, r3 := 0x400400#23 }
      = { r1 := 0x00201#19, r2 := 0x200000#22, r3 := 0x000801#23 } := by decide
theorem test_clockall_two_holding_zero :
    clockAll { r1 := 0x00100#19, r2 := 0x000000#22, r3 := 0x000000#23 }
      = { r1 := 0x00100#19, r2 := 0x000000#22, r3 := 0x000000#23 } := by decide
theorem test_outbit : outBit { r1 := 0x00201#19, r2 := 0x200000#22, r3 := 0x000801#23 } = true := by decide

/-- Section 3.2 row 9: the first irregular round of the all-ones key. -/
theorem test_round_nine :
    keyRound 0xFFFFFFFFFFFFFFFF#64 { r1 := 0x001FF#19, r2 := 0x0001FF#22, r3 := 0x0001FE#23 } 9
      = { r1 := 0x001FE#19, r2 := 0x0003FF#22, r3 := 0x0003FC#23 } := by decide
theorem test_init_all_ones :
    initRegs 0xFFFFFFFFFFFFFFFF#64 = { r1 := 0x07544#19, r2 := 0x3DE35D#22, r3 := 0x2ED0DB#23 } := by decide +kernel
theorem test_init_key_order :
    initRegs 0x8000000000000000#64 = { r1 := 0x544F6#19, r2 := 0x005000#22, r3 := 0x0F010F#23 } := by decide +kernel
theorem test_init_mixed :
    initRegs 0x0123456789ABCDEF#64 = { r1 := 0x6AF60#19, r2 := 0x298AB8#22, r3 := 0x2E9D29#23 } := by decide +kernel

/-- The golden vector (section 1.3): 0, 0, 1, 1, 0, 1, 1, 1. -/
theorem test_golden_vector :
    keystream 8 { r1 := 0x07544#19, r2 := 0x3DE35D#22, r3 := 0x2ED0DB#23 }
      = [false, false, true, true, false, true, true, true] := by decide +kernel

/-! Samples (section 6). -/

theorem test_masking_boundary : xorZ (-32768) 32767 = -1 ∧ xorZ (-1) 32767 = -32768 := by decide
theorem test_transform_negative : transform 2#2 true (-12345) = -20424 ∧ transform 1#2 true 200 = 55 := by decide
theorem test_clamp : clamp 300 1#2 = 255 ∧ clamp (-5) 1#2 = 0 ∧ clamp 40000 2#2 = 32767 ∧ clamp (-40000) 2#2 = -32768 := by
  decide
theorem test_sample_operands :
    sampleOperand 1#2 0x0100#16 = .error .sampleRange ∧ sampleOperand 2#2 0x8000#16 = .ok (-32768) := by decide

/-! Commands: one step on a small state. -/

/-- The state with the key of all ones loaded and width w. -/
def keyed (w : WidthReg) : State :=
  { State.reset with
    regs := { r1 := 0x07544#19, r2 := 0x3DE35D#22, r3 := 0x2ED0DB#23 }
    k := 0xFFFFFFFFFFFFFFFF#64
    kv := true
    w := w }

/-- The state after a command, or the state itself where there is none. -/
def after (o : Host.Outcome State Fault Refusal) : State :=
  match o with
  | .next t => t
  | .fault _ => State.reset
  | .refused _ => State.reset

/-- P1 row 2. -/
theorem test_nextbit :
    after (exec .nextbit (keyed 0#2)) =
      { keyed 0#2 with
        regs := { r1 := 0x07544#19, r2 := 0x3BC6BA#22, r3 := 0x5DA1B6#23 }
        out := [{ st := .ok, data := 0x0000#16 }] } := by decide
/-- P5 row 1. -/
theorem test_nextbit_no_key :
    after (exec .nextbit State.reset) = { State.reset with out := [{ st := .noKey, data := 0#16 }] } := by decide
/-- P4 row 5: the registers of P4 row 4, then XFORM.H -32768. -/
theorem test_xform_boundary :
    (after (exec (.xform 0x8000#16)
      { keyed 2#2 with regs := { r1 := 0x0EA89#19, r2 := 0x378D74#22, r3 := 0x5DA1B6#23 } })).out
      = [{ st := .ok, data := 0xFFFF#16 }] := by decide
/-- P5 rows 10 and 14: NoFormat, SampleRange. -/
theorem test_xform_errors :
    after (exec (.xform 0x0005#16) (keyed 0#2)) = { keyed 0#2 with out := [{ st := .noFormat, data := 0#16 }] } ∧
    after (exec (.xform 0x0100#16) (keyed 1#2)) = { keyed 1#2 with out := [{ st := .sampleRange, data := 0#16 }] } := by
  decide
/-- P5 rows 4 and 5: the width is checked before the key. -/
theorem test_start_priority :
    (after (exec (.start 3#64) State.reset)).out = [{ st := .unsupportedFormatError, data := 0#16 }] ∧
    (after (exec (.start 1#64) State.reset)).out = [{ st := .noKey, data := 0#16 }] := by decide
/-- P4 row 2. -/
theorem test_start :
    after (exec (.start 2#64) { keyed 0#2 with regs := Regs.zero })
      = { keyed 2#2 with out := [{ st := .ok, data := 0#16 }] } := by decide +kernel
/-- P7 row 7: W survives SETKEY. -/
theorem test_setkey :
    after (exec (.setkey 0xFFFFFFFFFFFFFFFF#64) { State.reset with w := 1#2 })
      = { keyed 1#2 with out := [{ st := .ok, data := 0#16 }] } := by decide +kernel
/-- P2 row 5, with the key of all ones: RESET restores the loaded registers. -/
theorem test_reset :
    (after (exec .reset { keyed 1#2 with regs := Regs.zero })).regs = (keyed 1#2).regs := by decide +kernel
/-- P5 row 6: the word 0x00 is answered IllegalCommand, as the first command after HRESET. -/
theorem test_illegal_word :
    after (step (State.reset.withFetchWord 72 0)) = { State.reset with out := [{ st := .illegalCommand, data := 0#16 }] } := by
  decide
/-- P5 row 2: the word of RESET, as the first command after HRESET. -/
theorem test_first_word :
    after (step (State.reset.withFetchWord 72 0x020000000000000000))
      = { State.reset with out := [{ st := .noKey, data := 0#16 }] } := by decide

/-! Host side (spec/95_test_vectors.md section 5, spec/30_encoding.md R57). -/

theorem test_hex2key_mixed_case :
    hex2key ['A', 'b', 'C', 'd', 'E', 'f', '0', '1', '2', '3', '4', '5', '6', '7', '8', '9'] = some 0xABCDEF0123456789#64 := by
  decide +kernel
theorem test_hex2key_bad_digit :
    hex2key ['0', '1', '2', '3', '4', '5', '6', '7', '8', '9', 'a', 'b', 'c', 'd', 'e', 'g'] = none := by decide +kernel
theorem test_key2hex :
    key2hex 0x0123456789ABCDEF#64 = ['0', '1', '2', '3', '4', '5', '6', '7', '8', '9', 'a', 'b', 'c', 'd', 'e', 'f'] := by
  decide +kernel
/-- P4: XFORM.H -12345 has ARG = 0xCFC7 (section 6). -/
theorem test_assemble_xform_h :
    assembleLine [' ', 'X', 'F', 'O', 'R', 'M', '.', 'H', ' ', '-', '1', '2', '3', '4', '5', ';', 'x']
      = some [0x05000000000000CFC7#72] := by decide +kernel
theorem test_assemble_rejects :
    assembleLine ['X', 'F', 'O', 'R', 'M', '.', 'B', ' ', '2', '5', '6'] = none ∧ assembleLine [';'] = some [] := by
  decide +kernel
/-- Chunks are consecutive and of length min(CHUNK, remaining) (spec/43_sample_cipher.md R120). -/
theorem test_chunks : chunks ⟨2, by decide⟩ [1, 2, 3, 4, 5] = [[1, 2], [3, 4], [5]] := by decide
/-- PROCESS 1 on 128, 0, 255 with the all-ones key: the keystream begins 0, 0, 1. -/
theorem test_process :
    (process 1#64 ⟨2, by decide⟩ [128, 0, 255] (keyed 0#2)).map (fun p => p.2) = some (.ok [128, 0, 0]) := by decide +kernel
/-- The first bits of the document's lists for the all-ones key (section 4.1). -/
theorem test_document_form :
    listGenerate 4 (listInit (List.replicate 64 true)) = [false, false, true, true] := by decide +kernel

/-! Witnesses: for every statement with hypotheses, a concrete state and operands that meet them. -/

theorem witness_hreset_event : ({ keyed 1#2 with input := [.hreset] } : State).input = .hreset :: [] := rfl

theorem witness_unspecified :
    State.reset.AgreeSpecified { State.reset with k := 1#64, regs := { r1 := 1#19, r2 := 2#22, r3 := 3#23 }, free := 5 } ∧
    ∃ t, core.run 1 State.reset = .next t := by
  refine ⟨⟨rfl, rfl, rfl, rfl, ?_⟩, State.reset, rfl⟩
  intro h; exact absurd h (by decide)

theorem witness_idle : State.reset.input = [] := rfl

theorem witness_step_decoded :
    ({ keyed 0#2 with input := [.command 0x030000000000000000#72] } : State).input = .command 0x030000000000000000#72 :: [] ∧
    decode 0x030000000000000000#72 = .ok .nextbit := ⟨rfl, by decide⟩

theorem witness_well_formed : (Instr.xform 0xFFFF#16).wellFormed = true := rfl

theorem witness_table_row :
    (∃ r ∈ opcodeTable, r.selects 0x05000000000000FFFF#72 = true ∧ r.mnemonic = "XFORM") ∧
    decode 0x05000000000000FFFF#72 = .ok (.xform 0xFFFF#16) := by
  refine ⟨⟨{ mnemonic := "XFORM", pattern := 0x050000000000000000#72, mask := 0xFFFFFFFFFFFFFF0000#72 }, ?_, ?_, rfl⟩, ?_⟩ <;>
    decide

/-- Each clause of IllegalWordsAreAnsweredIllegalCommand at a boundary: opcodes 0, 6 and 0xFF; RESET and NEXTBIT with ARG 1;
XFORM with ARG bit 16. The clauses exclude each other by the opcode. -/
theorem witness_illegal_words :
    ((0x00#8 : Opcode) = 0x00#8 ∨ 0x06#8 ≤ (0x00#8 : Opcode)) ∧ 0x06#8 ≤ (0x06#8 : Opcode) ∧ 0x06#8 ≤ (0xFF#8 : Opcode) ∧
    (1#64 : Arg) ≠ 0#64 ∧ (0x10000#64 : Arg).extractLsb' 16 48 ≠ 0#48 ∧
    ({ State.reset with input := [.command (0x05#8 ++ 0x10000#64)] } : State).input
      = .command (0x05#8 ++ 0x10000#64) :: [] := by decide

/-- EveryWordReportsTheFirstCondition has one hypothesis, a command at the head of the stream. -/
theorem witness_word_at_head :
    ({ State.reset with input := [.command (0x04#8 ++ 3#64)] } : State).input = .command (0x04#8 ++ 3#64) :: [] := rfl

theorem witness_clock_width : 0 < 19 := by decide

/-- EveryStepClocksTwoOrThreeRegisters: all equal; R1, R2, R3 the odd one out. -/
theorem witness_clock_bits :
    (clockBit1 0#19 = clockBit2 0#22 ∧ clockBit2 0#22 = clockBit3 0#23) ∧
    (clockBit2 0#22 = clockBit3 0#23 ∧ clockBit1 0x100#19 ≠ clockBit2 0#22) ∧
    (clockBit1 0#19 = clockBit3 0#23 ∧ clockBit2 0x400#22 ≠ clockBit1 0#19) ∧
    (clockBit1 0#19 = clockBit2 0#22 ∧ clockBit3 0x400#23 ≠ clockBit1 0#19) := by decide

/-- The hypotheses of GenReturnsTheNextBits, of the completion statements of RESET, NEXTBIT, START and XFORM, of SETKEY's
second clause, of ResetReplaysTheKeystreamOfTheKey and of the first clause of KeystreamIsDeterministicAndChunkInvariant. -/
theorem witness_keyed :
    (keyed 0#2).kv = true ∧ State.reset.kv = false ∧ (keyed 1#2).w = 1#2 ∧ (keyed 2#2).w = 2#2 ∧
    (0x00FF#16 : Data).toNat ≤ 255 ∧ (keyed 1#2).k = (keyed 2#2).k ∧ ((1#64 : Arg) = 1#64 ∨ (1#64 : Arg) = 2#64) ∧
    ((2#64 : Arg) = 1#64 ∨ (2#64 : Arg) = 2#64) := by decide

theorem witness_rounds : 63 < 64 ∧ 0 < 64 ∧ 7 ≤ 7 ∧ 0 ≤ 7 := by decide

/-- A command that fails, with its step and its response (ErrorsChangeNothing, BlockNeverAnswersTheHostsStatuses). -/
theorem witness_error :
    step { State.reset with input := [.command 0x030000000000000000#72] }
      = .next { State.reset with out := State.reset.out ++ [{ st := .noKey, data := 0#16 }] } ∧
    Status.noKey ≠ .ok := ⟨rfl, by decide⟩

/-- The hypotheses of DataFieldPerCommand, OnlyTheListedCommandsWriteEachItem and EveryStepKeepsTheStateLegal. -/
theorem witness_exec :
    exec .nextbit State.reset = .next { State.reset with out := State.reset.out ++ [{ st := .noKey, data := 0#16 }] } := rfl

theorem witness_legal :
    State.reset.Legal ∧ step State.reset = .next State.reset := by
  refine ⟨⟨⟨by decide, fun _ => rfl⟩, fun h => absurd h (by decide)⟩, rfl⟩

/-- KeyLoadingCommandsAreIdempotent: each of the three commands answers twice. -/
theorem witness_idempotent :
    exec .reset State.reset = .next (State.reset.raise .noKey) ∧
    exec .reset (State.reset.raise .noKey) = .next ((State.reset.raise .noKey).raise .noKey) ∧
    exec (.start 1#64) (keyed 0#2)
      = .next (((((keyed 0#2).setWidth 1#2).setRegs (initRegs 0xFFFFFFFFFFFFFFFF#64))).respond .ok 0#16) ∧
    exec (.setkey 0#64) State.reset
      = .next (((((State.reset.setKey 0#64).setRegs (initRegs 0#64)).setKeyValid)).respond .ok 0#16) := ⟨rfl, rfl, rfl, rfl⟩

theorem witness_xor_width :
    (-(2 ^ 15) ≤ (-32768 : Int) ∧ (-32768 : Int) < 2 ^ 15 ∧ -(2 ^ 15) ≤ (32767 : Int) ∧ (32767 : Int) < 2 ^ 15) ∧
    (-(2 ^ 0) ≤ (-1 : Int) ∧ (-1 : Int) < 2 ^ 0 ∧ -(2 ^ 0) ≤ (0 : Int) ∧ (0 : Int) < 2 ^ 0) := by decide

/-- The ends of both ranges (TransformClosedForms, ClampNeverChangesAnInRangeSample, TransformIsAnInvolution,
SamplesCrossTheBoundaryUnchanged). -/
theorem witness_in_range :
    Supported 1#2 ∧ Supported 2#2 ∧ inRange 1#2 0 ∧ inRange 1#2 255 ∧ inRange 2#2 (-32768) ∧ inRange 2#2 32767 := by
  unfold Supported inRange; decide

/-- XformUsesTheBitNextbitWouldReturn: both commands succeed in one state. -/
theorem witness_xform_and_nextbit :
    (∃ t, exec (.xform 0x0080#16) (keyed 1#2) = .next t ∧ t.out = (keyed 1#2).out ++ [{ st := .ok, data := 0x0080#16 }]) ∧
    (∃ u, exec .nextbit (keyed 1#2) = .next u ∧ u.out = (keyed 1#2).out ++ [{ st := .ok, data := 0#16 }]) := by
  refine ⟨⟨after (exec (.xform 0x0080#16) (keyed 1#2)), rfl, by decide⟩,
    ⟨after (exec .nextbit (keyed 1#2)), rfl, by decide⟩⟩

/-- The hypotheses on buffers of the statements about PROCESS, both widths, and of the failures of ProcessFailsFast. -/
theorem witness_buffers :
    (∀ v ∈ [(0 : Int), 255], inRange 1#2 v) ∧ (∀ v ∈ [(-32768 : Int), 32767], inRange 2#2 v) ∧
    (0#64 : Arg) ≠ 1#64 ∧ (3#64 : Arg) ≠ 2#64 ∧ (255 : Int) < 256 ∧ (256 : Int) ≤ 65535 ∧ (255 : Int) < 65535 := by
  unfold inRange; decide

/-- The hypotheses of HexStringsDecodeNibbleByNibble, HexCodecRoundTrips and SetkeyhexValidatesBeforeSetkey. -/
theorem witness_hex :
    hex2key (List.replicate 16 'f') = some 0xFFFFFFFFFFFFFFFF#64 ∧ (List.replicate 16 'f')[15]? = some 'f' ∧
    (List.replicate 16 'f').length = 16 ∧ hex2key ['f'] = none := by
  refine ⟨?_, rfl, rfl, rfl⟩
  decide +kernel

/-- Characters beside the ends of the three ranges of digits are none of the digits. -/
theorem witness_no_digit :
    ∀ c ∈ ['/', ':', '@', 'G', '`', 'g'], c ∉ ['0', '1', '2', '3', '4', '5', '6', '7', '8', '9', 'a', 'b', 'c', 'd', 'e', 'f',
      'A', 'B', 'C', 'D', 'E', 'F'] := by
  simp

theorem witness_lower_case : ∀ c ∈ List.replicate 16 'f', c ∈ hexDigits := by
  intro c hc
  rw [List.eq_of_mem_replicate hc]
  simp [hexDigits]

end Sys2Proof.Tests
end

/-! PROOFS. The statements about the state (spec/10_state.md): which commands write each item, the legal states, and the
values that HRESET leaves unspecified. First what the inversion lemmas of Laws/Ops leave open: their converses, and runs of
several steps. -/

namespace Sys2Proof.Machine

/-! The case lemmas of exec and step in the other direction: each case is what the command or the step does. -/

theorem exec_of_case {i : Instr} {s t : State} (h : ExecCase i s t) : exec i s = .next t := by
  cases h with
  | unsupported width hi hw => subst hi; simp [exec, execStart, startWidth, hw]
  | noKey hk hi =>
    rcases hi with rfl | rfl | ⟨width, rfl, hw⟩ | ⟨sample, rfl⟩
    · simp [exec, execReset, hk]
    · simp [exec, execNextbit, hk]
    · rcases hw with rfl | rfl <;> simp [exec, execStart, startWidth, hk]
    · simp [exec, execXform, hk]
  | noFormat sample hi hk hw => subst hi; simp [exec, execXform, hk, hw]
  | sampleRange sample hi hk hw hf => subst hi; simp [exec, execXform, hk, hw, sampleOperand, hf]
  | setkey key hi => subst hi; rfl
  | reset hi hk => subst hi; simp [exec, execReset, hk]
  | nextbit hi hk => subst hi; simp [exec, execNextbit, hk]
  | start width w hi hk hw => subst hi; simp [exec, execStart, hw, hk]
  | xform sample v hi hk hw hv => subst hi; simp [exec, execXform, hk, hw, hv]

theorem exec_eq_next_iff {i : Instr} {s t : State} : exec i s = .next t ↔ ExecCase i s t :=
  ⟨exec_cases, exec_of_case⟩

theorem step_of_case {s t : State} (h : StepCase s t) : step s = .next t := by
  cases h with
  | idle hin => simp [step, hin]
  | hreset rest hin => simp [step, State.nextEvent_cons _ _ _ hin]
  | command cw rest i t hin hd he => simp [step, State.nextEvent_cons _ _ _ hin, hd, exec_of_case he]
  | illegal cw rest e hin hd => simp [step, State.nextEvent_cons _ _ _ hin, hd]

theorem step_eq_next_iff {s t : State} : step s = .next t ↔ StepCase s t :=
  ⟨step_cases, step_of_case⟩

/-! Runs. -/

theorem run_succ_eq_next_iff {n : Nat} {s u : State} :
    core.run (n + 1) s = .next u ↔ ∃ t, step s = .next t ∧ core.run n t = .next u := by
  have hcore : core.step s = step s := rfl
  cases hs : step s with
  | next t => simp [Host.Core.run, hcore, hs]
  | fault r => cases r
  | refused r => simp [Host.Core.run, hcore, hs]

/-- A relation that every step carries along is carried along by every run. -/
theorem run_simulates {R : State → State → Prop}
    (hstep : ∀ {s t s' : State}, R s t → step s = .next s' → ∃ t', step t = .next t' ∧ R s' t') :
    ∀ (n : Nat) {s t s' : State}, R s t → core.run n s = .next s' → ∃ t', core.run n t = .next t' ∧ R s' t'
  | 0, s, t, s', hR, h => by
    cases h
    exact ⟨t, rfl, hR⟩
  | n + 1, s, t, s', hR, h => by
    obtain ⟨s₁, hs, hrun⟩ := run_succ_eq_next_iff.1 h
    obtain ⟨t₁, ht, hR₁⟩ := hstep hR hs
    obtain ⟨t', hrun', hR'⟩ := run_simulates hstep n hR₁ hrun
    exact ⟨t', run_succ_eq_next_iff.2 ⟨t₁, ht, hrun'⟩, hR'⟩

/-! Agreement on what the spec specifies, through each operation on the state (spec/10_state.md R19). -/

namespace State.AgreeSpecified

variable {s t : State}

theorem kv_eq (h : s.AgreeSpecified t) : s.kv = t.kv := h.1

theorem w_eq (h : s.AgreeSpecified t) : s.w = t.w := h.2.1

theorem input_eq (h : s.AgreeSpecified t) : s.input = t.input := h.2.2.1

theorem out_eq (h : s.AgreeSpecified t) : s.out = t.out := h.2.2.2.1

theorem regs_eq (h : s.AgreeSpecified t) (hk : s.kv = true) : s.regs = t.regs := (h.2.2.2.2 hk).1

theorem k_eq (h : s.AgreeSpecified t) (hk : s.kv = true) : s.k = t.k := (h.2.2.2.2 hk).2

theorem respond (h : s.AgreeSpecified t) (st : Status) (d : Data) : (s.respond st d).AgreeSpecified (t.respond st d) :=
  ⟨h.kv_eq, h.w_eq, h.input_eq, by simp [h.out_eq], fun hk => ⟨h.regs_eq hk, h.k_eq hk⟩⟩

theorem raise (h : s.AgreeSpecified t) (st : Status) : (s.raise st).AgreeSpecified (t.raise st) :=
  h.respond st 0#16

theorem setRegs (h : s.AgreeSpecified t) (g : Regs) : (s.setRegs g).AgreeSpecified (t.setRegs g) :=
  ⟨h.kv_eq, h.w_eq, h.input_eq, h.out_eq, fun hk => ⟨rfl, h.k_eq hk⟩⟩

theorem setWidth (h : s.AgreeSpecified t) (w : WidthReg) : (s.setWidth w).AgreeSpecified (t.setWidth w) :=
  ⟨h.kv_eq, rfl, h.input_eq, h.out_eq, fun hk => ⟨h.regs_eq hk, h.k_eq hk⟩⟩

/-- Loading a key makes R1, R2, R3 and K specified: both states hold what SETKEY wrote (spec/42_key_scheduler.md R95). -/
theorem loadKey (h : s.AgreeSpecified t) (key : Key) (g : Regs) :
    (((s.setKey key).setRegs g).setKeyValid).AgreeSpecified (((t.setKey key).setRegs g).setKeyValid) :=
  ⟨rfl, h.w_eq, h.input_eq, h.out_eq, fun _ => ⟨rfl, rfl⟩⟩

/-- HRESET makes R1, R2, R3 and K unspecified: the two states may draw different free values. -/
theorem hreset (h : s.AgreeSpecified t) : s.hreset.AgreeSpecified t.hreset :=
  ⟨rfl, rfl, h.input_eq, h.out_eq, fun hk => absurd hk (by simp)⟩

theorem withInput (h : s.AgreeSpecified t) (rest : List HostEvent) :
    State.AgreeSpecified { s with input := rest } { t with input := rest } :=
  ⟨h.kv_eq, h.w_eq, rfl, h.out_eq, h.2.2.2.2⟩

/-- A command tests only KV and W, and reads R1, R2, R3 and K only where KV = 1, so it takes the same case in both states. -/
theorem execCase (h : s.AgreeSpecified t) {i : Instr} {s' : State} (he : ExecCase i s s') :
    ∃ t', ExecCase i t t' ∧ s'.AgreeSpecified t' := by
  cases he with
  | unsupported width hi hw => exact ⟨_, .unsupported width hi hw, h.raise _⟩
  | noKey hk hi => exact ⟨_, .noKey (h.kv_eq ▸ hk) hi, h.raise _⟩
  | noFormat sample hi hk hw => exact ⟨_, .noFormat sample hi (h.kv_eq ▸ hk) (h.w_eq ▸ hw), h.raise _⟩
  | sampleRange sample hi hk hw hf =>
    exact ⟨_, .sampleRange sample hi (h.kv_eq ▸ hk) (h.w_eq ▸ hw) hf, h.raise _⟩
  | setkey key hi => exact ⟨_, .setkey key hi, (h.loadKey key _).respond _ _⟩
  | reset hi hk =>
    rw [h.k_eq hk]
    exact ⟨_, .reset hi (h.kv_eq ▸ hk), (h.setRegs _).respond _ _⟩
  | nextbit hi hk =>
    rw [h.regs_eq hk]
    exact ⟨_, .nextbit hi (h.kv_eq ▸ hk), (h.setRegs _).respond _ _⟩
  | start width w hi hk hw =>
    rw [h.k_eq hk]
    exact ⟨_, .start width w hi (h.kv_eq ▸ hk) hw, ((h.setWidth w).setRegs _).respond _ _⟩
  | xform sample v hi hk hw hv =>
    rw [h.regs_eq hk, h.w_eq]
    exact ⟨_, .xform sample v hi (h.kv_eq ▸ hk) (h.w_eq ▸ hw) (h.w_eq ▸ hv), (h.setRegs _).respond _ _⟩

theorem stepCase (h : s.AgreeSpecified t) {s' : State} (hs : StepCase s s') :
    ∃ t', StepCase t t' ∧ s'.AgreeSpecified t' := by
  cases hs with
  | idle hin => exact ⟨_, .idle (h.input_eq ▸ hin), h⟩
  | hreset rest hin => exact ⟨_, .hreset rest (h.input_eq ▸ hin), (h.withInput rest).hreset⟩
  | command cw rest i s' hin hd he =>
    obtain ⟨t', he', h'⟩ := (h.withInput rest).execCase he
    exact ⟨t', .command cw rest i t' (h.input_eq ▸ hin) hd he', h'⟩
  | illegal cw rest e hin hd => exact ⟨_, .illegal cw rest e (h.input_eq ▸ hin) hd, (h.withInput rest).raise _⟩

theorem exists_step (h : s.AgreeSpecified t) {s' : State} (hs : step s = .next s') :
    ∃ t', step t = .next t' ∧ s'.AgreeSpecified t' := by
  simpa only [step_eq_next_iff] using h.stepCase (step_cases hs)

end State.AgreeSpecified

/-- Settles O3: agreement on what is specified is a simulation, by the step lemma of each case, and so holds along runs. -/
theorem unspecifiedValuesAreNeverObserved : Obligations.UnspecifiedValuesAreNeverObserved := by
  intro n s t s' h hrun
  exact run_simulates (R := State.AgreeSpecified) (fun hR hs => hR.exists_step hs) n h hrun

/-! The legal states (spec/10_state.md R15, spec/41_keystream_generator.md R85). -/

theorem clockAllN_eq_iterate (n : Nat) (g : Regs) : clockAllN n g = clockAll^[n] g := by
  induction n generalizing g with
  | zero => rfl
  | succ n ih => exact ih (clockAll g)

theorem clockAll_clockAllN (n : Nat) (g : Regs) : clockAll (clockAllN n g) = clockAllN (n + 1) g := by
  simp only [clockAllN_eq_iterate, Function.iterate_succ_apply']

theorem startWidth_ne_three {width : Arg} {w : WidthReg} (h : startWidth width = .ok w) : w ≠ 3#2 := by
  rcases (startWidth_ok_iff width w).1 h with ⟨_, rfl⟩ | ⟨_, rfl⟩ <;> decide

namespace State

variable {s t : State}

theorem Legal.w_ne_three (h : s.Legal) : s.w ≠ 3#2 := h.1.1

/-- Being legal is a matter of R1, R2, R3, K, W and KV alone. -/
theorem Legal.of_sameBlock (h : s.Legal) (hb : t.SameBlock s) : t.Legal := by
  obtain ⟨hregs, hk, hw, hkv⟩ := hb
  simpa only [Legal, controlLegal, onKeystream, hregs, hk, hw, hkv] using h

/-- With a key loaded and W legal, the registers just loaded from the key are position 0 of the keystream. -/
theorem legal_of_regs_initRegs (hw : s.w ≠ 3#2) (hkv : s.kv = true) (hregs : s.regs = initRegs s.k) : s.Legal :=
  ⟨⟨hw, by simp [hkv]⟩, fun _ => ⟨0, hregs⟩⟩

/-- One CLOCKALL moves the registers from position n of the keystream to position n + 1. -/
theorem Legal.clockAll (h : s.Legal) : (s.setRegs (clockAll s.regs)).Legal := by
  obtain ⟨hcontrol, hkeystream⟩ := h
  refine ⟨hcontrol, fun hkv => ?_⟩
  obtain ⟨n, hn⟩ := hkeystream hkv
  exact ⟨n + 1, by simp [hn, clockAll_clockAllN]⟩

theorem hreset_legal (s : State) : s.hreset.Legal :=
  ⟨⟨by simp, fun _ => rfl⟩, by simp [onKeystream]⟩

theorem Legal.execCase (h : s.Legal) {i : Instr} (he : ExecCase i s t) : t.Legal := by
  cases he with
  | unsupported | noKey | noFormat | sampleRange => exact h.of_sameBlock ⟨rfl, rfl, rfl, rfl⟩
  | setkey key hi => exact legal_of_regs_initRegs h.w_ne_three rfl rfl
  | reset hi hk => exact legal_of_regs_initRegs h.w_ne_three hk rfl
  | start width w hi hk hw => exact legal_of_regs_initRegs (startWidth_ne_three hw) hk rfl
  | nextbit | xform => exact h.clockAll.of_sameBlock ⟨rfl, rfl, rfl, rfl⟩

theorem Legal.stepCase (h : s.Legal) (hs : StepCase s t) : t.Legal := by
  cases hs with
  | idle hin => exact h
  | hreset rest hin => exact hreset_legal _
  | command cw rest i t hin hd he =>
    have htaken : Legal { s with input := rest } := h.of_sameBlock ⟨rfl, rfl, rfl, rfl⟩
    exact htaken.execCase he
  | illegal cw rest e hin hd => exact h.of_sameBlock ⟨rfl, rfl, rfl, rfl⟩

end State

/-- Settles O45, by the cases of a step. -/
theorem everyStepKeepsTheStateLegal : Obligations.EveryStepKeepsTheStateLegal := by
  intro s t h hstep
  exact h.stepCase (step_cases hstep)

/-- Settles O46: with KV = 0 the invariant only asks that W = 0. -/
theorem resetStateIsLegal : Obligations.ResetStateIsLegal :=
  ⟨⟨by decide, fun _ => rfl⟩, fun hkv => absurd hkv (by decide)⟩

/-- Settles O1. -/
theorem resetStateHasNoKeyAndNoFormat : Obligations.ResetStateHasNoKeyAndNoFormat :=
  ⟨rfl, rfl⟩

/-! Who may write what (spec/10_state.md R17). -/

/-- Settles O40, by the cases of a command: an error writes nothing, an effect writes the items its row of R17 names. -/
theorem onlyTheListedCommandsWriteEachItem : Obligations.OnlyTheListedCommandsWriteEachItem := by
  intro i s t h
  cases exec_cases h with
  | unsupported | noKey | noFormat | sampleRange => exact ⟨.inl rfl, .inl rfl, .inl rfl, .inl rfl, rfl, rfl⟩
  | setkey key hi =>
    exact ⟨.inr ⟨key, hi, rfl⟩, .inl rfl, .inr ⟨key, hi, rfl⟩, .inr (.inl ⟨.inr (.inl ⟨key, hi⟩), rfl⟩), rfl, rfl⟩
  | reset hi hk => exact ⟨.inl rfl, .inl rfl, .inl rfl, .inr (.inl ⟨.inl hi, rfl⟩), rfl, rfl⟩
  | start width w hi hk hw =>
    have hwidth : w = 1#2 ∨ w = 2#2 := ((startWidth_ok_iff width w).1 hw).imp And.right And.right
    exact ⟨.inl rfl, .inr ⟨width, hi, hwidth⟩, .inl rfl, .inr (.inl ⟨.inr (.inr ⟨width, hi⟩), rfl⟩), rfl, rfl⟩
  | nextbit hi hk => exact ⟨.inl rfl, .inl rfl, .inl rfl, .inr (.inr ⟨.inl hi, rfl⟩), rfl, rfl⟩
  | xform sample v hi hk hw hv =>
    exact ⟨.inl rfl, .inl rfl, .inl rfl, .inr (.inr ⟨.inr ⟨sample, hi⟩, rfl⟩), rfl, rfl⟩

end Sys2Proof.Machine

/-! PROOFS. The statements about the order of commands and the samples at the boundary (spec/20_memory.md): what serving a
command word is, which commands may be repeated, which keystream bit XFORM uses, and the encodings of a sample. -/

namespace Sys2Proof.Machine

/-! Serving a command word (spec/20_memory.md R36). -/

theorem step_of_decode_ok {s : State} {cw : CommandWord} {rest : List HostEvent} {i : Instr}
    (hin : s.input = .command cw :: rest) (hd : decode cw = .ok i) : step s = exec i { s with input := rest } := by
  simp [step, State.nextEvent_cons _ _ _ hin, hd]

/-- Settles O5. -/
theorem stepRunsTheDecodedCommand : Obligations.StepRunsTheDecodedCommand :=
  fun _ _ _ _ hin hd => step_of_decode_ok hin hd

/-! Idempotency (spec/20_memory.md R35). -/

theorem ExecCase.eq_of_exec {i : Instr} {s t u : State} (hc : ExecCase i s t) (h : exec i s = .next u) : t = u := by
  simpa using (exec_of_case hc).symm.trans h

/-- A command that leaves the keystream where key loading put it may be repeated: the condition of its case still holds after
it, and the same case writes the same items again. -/
theorem ExecCase.repeat_sameBlock {i : Instr} {s t : State} (hc : ExecCase i s t) (hnext : i ≠ .nextbit)
    (hxform : ∀ sample, i ≠ .xform sample) : ∃ u, ExecCase i t u ∧ t.SameBlock u := by
  cases hc with
  | unsupported width hi hw => exact ⟨_, .unsupported width hi hw, rfl, rfl, rfl, rfl⟩
  | noKey hk hi => exact ⟨_, .noKey hk hi, rfl, rfl, rfl, rfl⟩
  | setkey key hi => exact ⟨_, .setkey key hi, rfl, rfl, rfl, rfl⟩
  | reset hi hk => exact ⟨_, .reset hi hk, rfl, rfl, rfl, rfl⟩
  | start width w hi hk hw => exact ⟨_, .start width w hi hk hw, rfl, rfl, rfl, rfl⟩
  | nextbit hi => exact absurd hi hnext
  | noFormat sample hi | sampleRange sample hi | xform sample v hi => exact absurd hi (hxform sample)

/-- Settles O41: the second issue takes the same case as the first. -/
theorem keyLoadingCommandsAreIdempotent : Obligations.KeyLoadingCommandsAreIdempotent := by
  intro i s t u hi ht hu
  have hnext : i ≠ .nextbit := by rintro rfl; simp at hi
  have hxform : ∀ sample, i ≠ .xform sample := by rintro sample rfl; simp at hi
  obtain ⟨v, hv, hblock⟩ := (exec_cases ht).repeat_sameBlock hnext hxform
  exact hv.eq_of_exec hu ▸ hblock

/-! The bit XFORM uses (spec/20_memory.md R41). -/

theorem bitData_getLsbD_zero (z : Bool) : (bitData z).getLsbD 0 = z := by
  cases z <;> rfl

/-- A NEXTBIT answered OK made one CLOCKALL and returned OUTBIT of the registers after it. -/
theorem exec_nextbit_ok {s t : State} {z : Data} (h : exec .nextbit s = .next t)
    (hout : t.out = s.out ++ [{ st := .ok, data := z }]) :
    t.regs = clockAll s.regs ∧ z = bitData (outBit (clockAll s.regs)) := by
  cases exec_cases h with
  | nextbit => exact ⟨rfl, by simpa using hout.symm⟩
  | noKey => simp at hout
  | _ => contradiction

/-- An XFORM answered OK had an operand, made one CLOCKALL and returned the transform of the operand with OUTBIT of the
registers after it. -/
theorem exec_xform_ok {s t : State} {sample d : Data} (h : exec (.xform sample) s = .next t)
    (hout : t.out = s.out ++ [{ st := .ok, data := d }]) :
    t.regs = clockAll s.regs ∧ ∃ v, sampleOperand s.w sample = .ok v ∧
      d = sampleData s.w (transform s.w (outBit (clockAll s.regs)) v) := by
  cases exec_cases h with
  | xform field v hi hk hw hv =>
    cases hi
    exact ⟨rfl, v, hv, by simpa using hout.symm⟩
  | noKey | noFormat | sampleRange => simp at hout
  | _ => contradiction

/-- Settles O53: both commands step the registers once and use OUTBIT of the registers after that step. -/
theorem xformUsesTheBitNextbitWouldReturn : Obligations.XformUsesTheBitNextbitWouldReturn := by
  intro s t u sample d z hx hn htout huout
  obtain ⟨htregs, v, hv, hd⟩ := exec_xform_ok hx htout
  obtain ⟨huregs, rfl⟩ := exec_nextbit_ok hn huout
  exact ⟨htregs.trans huregs.symm, v, hv, by rw [bitData_getLsbD_zero, hd]⟩

/-! Samples at the boundary (spec/20_memory.md R31, spec/30_encoding.md R49, R52, R57). -/

theorem inRange_one_iff {v : Int} : inRange 1#2 v ↔ 0 ≤ v ∧ v ≤ 255 := Iff.rfl

theorem inRange_two_iff {v : Int} : inRange 2#2 v ↔ -32768 ≤ v ∧ v ≤ 32767 := Iff.rfl

theorem exists_nat_of_inRange_one {v : Int} (h : inRange 1#2 v) : ∃ n : Nat, v = n ∧ n < 256 := by
  obtain ⟨hlo, hhi⟩ := inRange_one_iff.1 h
  exact ⟨v.toNat, by omega, by omega⟩

theorem toInt_ofInt_of_inRange_two {v : Int} (h : inRange 2#2 v) : (BitVec.ofInt 16 v).toInt = v := by
  obtain ⟨hlo, hhi⟩ := inRange_two_iff.1 h
  exact BitVec.toInt_ofInt_eq_self (by decide) hlo (by omega)

/-- The field of an in-range sample is read back by the block: for W = 1 its high byte is zero and its low byte the sample,
for W = 2 it is the two's complement of the sample. -/
theorem sampleOperand_ofInt {w : WidthReg} {v : Int} (hw : Supported w) (h : inRange w v) :
    sampleOperand w (BitVec.ofInt 16 v) = .ok v := by
  rcases hw with rfl | rfl
  · obtain ⟨n, rfl, hn⟩ := exists_nat_of_inRange_one h
    have hhigh : (BitVec.ofNat 16 n).extractLsb' 8 8 = 0#8 := by
      apply BitVec.eq_of_toNat_eq
      simp [Nat.shiftRight_eq_div_pow]
      omega
    have hlow : ((BitVec.ofNat 16 n).extractLsb' 0 8).toNat = n := by
      simp
      omega
    simp [sampleOperand, BitVec.ofInt_natCast, hhigh, hlow]
  · simp [sampleOperand, toInt_ofInt_of_inRange_two h]

/-- The result field of an in-range value is read back by the host. -/
theorem readData_sampleData {w : WidthReg} {v : Int} (hw : Supported w) (h : inRange w v) :
    readData w (sampleData w v) = v := by
  rcases hw with rfl | rfl
  · obtain ⟨n, rfl, hn⟩ := exists_nat_of_inRange_one h
    simp [readData, sampleData]
    omega
  · simp [readData, sampleData, toInt_ofInt_of_inRange_two h]

theorem assemble_of_wellFormed {a : AsmLine} (h : a.wellFormed = true) : a.assemble = some (encode a.command) := by
  simp [AsmLine.assemble, h]

theorem wellFormed_xformB_iff {v : Int} : (AsmLine.xformB v).wellFormed = true ↔ inRange 1#2 v :=
  decide_eq_true_iff

theorem wellFormed_xformH_iff {v : Int} : (AsmLine.xformH v).wellFormed = true ↔ inRange 2#2 v :=
  decide_eq_true_iff

/-- Settles O52: the assembler's operand range of a width is its valid range, and both field encodings are read back. -/
theorem samplesCrossTheBoundaryUnchanged : Obligations.SamplesCrossTheBoundaryUnchanged := by
  refine ⟨fun v h => ?_, fun v h => ?_⟩
  · have hw : Supported 1#2 := .inl rfl
    exact ⟨sampleOperand_ofInt hw h, readData_sampleData hw h, assemble_of_wellFormed (wellFormed_xformB_iff.2 h)⟩
  · have hw : Supported 2#2 := .inr rfl
    exact ⟨sampleOperand_ofInt hw h, readData_sampleData hw h, assemble_of_wellFormed (wellFormed_xformH_iff.2 h)⟩

end Sys2Proof.Machine

/-! PROOFS. The statements about the encoding (spec/30_encoding.md): decoder and encoder, the opcode table, the answer to an
illegal word, the response word, and the responses of a run. -/

namespace Sys2Proof

/-! Two fields side by side in a word (spec/30_encoding.md R45, R50). -/

/-- A word is the concatenation of two fields exactly when its two parts are the fields. -/
theorem append_eq_iff {w v : Nat} {a : BitVec w} {b : BitVec v} {x : BitVec (w + v)} :
    a ++ b = x ↔ a = x.extractLsb' v w ∧ b = x.extractLsb' 0 v := by
  constructor
  · rintro rfl
    exact ⟨BitVec.extractLsb'_append_eq_left.symm, BitVec.extractLsb'_append_eq_right.symm⟩
  · rintro ⟨rfl, rfl⟩
    exact BitVec.extractLsb'_append_extractLsb'

theorem append_inj_iff {w v : Nat} {a c : BitVec w} {b d : BitVec v} : a ++ b = c ++ d ↔ a = c ∧ b = d := by
  rw [append_eq_iff, BitVec.extractLsb'_append_eq_left, BitVec.extractLsb'_append_eq_right]

theorem exists_eq_append {w v : Nat} (x : BitVec (w + v)) : ∃ (a : BitVec w) (b : BitVec v), x = a ++ b :=
  ⟨_, _, (append_eq_iff.2 ⟨rfl, rfl⟩).symm⟩

/-- An ARG is a SAMPLE with the reserved bits zero exactly when ARG[63:16] = 0 and ARG[15:0] is the sample
(spec/30_encoding.md R46). -/
theorem setWidth_sample_eq_iff {sample : Data} {arg : Arg} :
    sample.setWidth 64 = arg ↔ arg.extractLsb' 16 48 = 0#48 ∧ sample = arg.extractLsb' 0 16 := by
  have hfields : sample.setWidth 64 = 0#48 ++ sample := BitVec.setWidth_eq_append (by decide)
  rw [hfields, append_eq_iff, eq_comm (a := 0#48)]

@[simp] theorem extractLsb'_reserved_setWidth (sample : Data) : (sample.setWidth 64).extractLsb' 16 48 = 0#48 :=
  (setWidth_sample_eq_iff.1 rfl).1

@[simp] theorem extractLsb'_sample_setWidth (sample : Data) : (sample.setWidth 64).extractLsb' 0 16 = sample :=
  (setWidth_sample_eq_iff.1 rfl).2.symm

@[simp] theorem splitWord_append (op : Opcode) (arg : Arg) : splitWord (op ++ arg) = { op := op, arg := arg } := by
  simp only [splitWord, BitVec.extractLsb'_append_eq_left, BitVec.extractLsb'_append_eq_right]

theorem splitWord_op_append_arg (cw : CommandWord) : (splitWord cw).op ++ (splitWord cw).arg = cw :=
  BitVec.extractLsb'_append_extractLsb'

/-! The decoder inverts the encoder. -/

/-- The fields of a command decode to it. -/
theorem decodeFields_opcode_arg (i : Instr) : decodeFields i.opcode i.arg = .ok i := by
  cases i with
  | setkey | reset | nextbit | start => rfl
  | xform sample => simp [decodeFields, Instr.opcode, Instr.arg]

/-- Fields that decode to a command are the fields of that command. -/
theorem opcode_arg_of_decodeFields {op : Opcode} {arg : Arg} {i : Instr} (h : decodeFields op arg = .ok i) :
    i.opcode = op ∧ i.arg = arg := by
  simp only [decodeFields] at h
  split_ifs at h <;> cases h
  case pos hop => exact ⟨hop.symm, rfl⟩
  case pos hop harg => exact ⟨hop.symm, harg.symm⟩
  case pos hop harg => exact ⟨hop.symm, harg.symm⟩
  case pos hop => exact ⟨hop.symm, rfl⟩
  case pos hop hreserved => exact ⟨hop.symm, setWidth_sample_eq_iff.2 ⟨hreserved, rfl⟩⟩

/-- Decoder and encoder are inverse to each other; all else about the decoder follows from this. -/
theorem decode_eq_ok_iff {cw : CommandWord} {i : Instr} : decode cw = .ok i ↔ encode i = cw := by
  constructor
  · intro h
    obtain ⟨hop, harg⟩ := opcode_arg_of_decodeFields h
    rw [encode, hop, harg, splitWord_op_append_arg]
  · rintro rfl
    simpa [decode, encode] using decodeFields_opcode_arg i

/-- Settles O6. -/
theorem decodeOfEncodeIsTheCommand : Obligations.DecodeOfEncodeIsTheCommand :=
  fun _ _ => decode_eq_ok_iff.2 rfl

/-- Settles O7. -/
theorem encodeOfDecodeIsTheWord : Obligations.EncodeOfDecodeIsTheWord :=
  fun _ _ h => decode_eq_ok_iff.1 h

theorem decode_append_eq_ok_iff {op : Opcode} {arg : Arg} {i : Instr} :
    decode (op ++ arg) = .ok i ↔ i.opcode = op ∧ i.arg = arg := by
  rw [decode_eq_ok_iff, encode, append_inj_iff]

/-- Settles O11: each word is the encoding of its command. -/
theorem wordsFromTheEncodingDecode : Obligations.WordsFromTheEncodingDecode := by
  simp only [Obligations.WordsFromTheEncodingDecode, decode_eq_ok_iff]
  decide

/-! Which words decode (spec/30_encoding.md R53, R54, R56). -/

/-- The reserved bits of XFORM's ARG are zero exactly when ARG is below 2^16. -/
theorem extractLsb'_reserved_eq_zero_iff {arg : Arg} : arg.extractLsb' 16 48 = 0#48 ↔ arg.toNat < 2 ^ 16 := by
  have harg : arg.toNat < 2 ^ 64 := arg.isLt
  rw [← BitVec.toNat_inj, BitVec.extractLsb'_toNat, Nat.shiftRight_eq_div_pow, BitVec.toNat_ofNat]
  omega

/-- RESET and NEXTBIT have no operand: all of ARG is reserved. -/
theorem eq_zero_of_reservedZero {op : Opcode} {arg : Arg} (hop : op = 0x02#8 ∨ op = 0x03#8)
    (h : RawCommand.reservedZero { op := op, arg := arg } = true) : arg = 0#64 := by
  rcases hop with rfl | rfl
  · exact BitVec.eq_of_toNat_eq (eq_of_beq (α := Nat) h)
  · exact BitVec.eq_of_toNat_eq (eq_of_beq (α := Nat) h)

/-- The well-formed raw commands are those whose fields are the fields of a command. -/
theorem wellFormed_iff_exists_instr {c : RawCommand} :
    c.wellFormed = true ↔ ∃ i : Instr, i.opcode = c.op ∧ i.arg = c.arg := by
  obtain ⟨op, arg⟩ := c
  constructor
  · intro h
    obtain ⟨hassigned, hreserved⟩ := Bool.and_eq_true_iff.1 h
    have hop : op = 0x01#8 ∨ op = 0x02#8 ∨ op = 0x03#8 ∨ op = 0x04#8 ∨ op = 0x05#8 := by
      have hbounds : 1 ≤ op.toNat ∧ op.toNat ≤ 5 := of_decide_eq_true hassigned
      bv_omega
    rcases hop with rfl | rfl | rfl | rfl | rfl
    · exact ⟨.setkey arg, rfl, rfl⟩
    · exact ⟨.reset, rfl, (eq_zero_of_reservedZero (.inl rfl) hreserved).symm⟩
    · exact ⟨.nextbit, rfl, (eq_zero_of_reservedZero (.inr rfl) hreserved).symm⟩
    · exact ⟨.start arg, rfl, rfl⟩
    · have hlt : arg.toNat < 2 ^ 16 := of_decide_eq_true hreserved
      exact ⟨.xform (arg.extractLsb' 0 16), rfl,
        setWidth_sample_eq_iff.2 ⟨extractLsb'_reserved_eq_zero_iff.2 hlt, rfl⟩⟩
  · rintro ⟨i, rfl, rfl⟩
    cases i with
    | setkey | reset | nextbit | start => rfl
    | xform sample =>
      have hlt : (sample.setWidth 64).toNat < 2 ^ 16 :=
        extractLsb'_reserved_eq_zero_iff.1 (extractLsb'_reserved_setWidth sample)
      exact decide_eq_true hlt

/-- Settles O9. -/
theorem decoderAcceptsExactlyWellFormedWords : Obligations.DecoderAcceptsExactlyWellFormedWords := by
  intro cw
  rw [wellFormed_iff_exists_instr]
  simp only [← decode_append_eq_ok_iff, splitWord_op_append_arg]

/-! The opcode table (spec/30_encoding.md R47). -/

/-- Every command has a row of its mnemonic, which its word selects. -/
theorem tableWord_statement (i : Instr) : Laws.TableWord.Statement i := by
  cases i with
  | setkey key => exact Laws.TableWord.setkey key
  | reset => exact Laws.TableWord.reset
  | nextbit => exact Laws.TableWord.nextbit
  | start width => exact Laws.TableWord.start width
  | xform sample => exact Laws.TableWord.xform sample

/-- No two rows of the table have the same mnemonic. -/
theorem eq_of_mnemonic_eq {r q : TableRow} (hr : r ∈ opcodeTable) (hq : q ∈ opcodeTable) (h : r.mnemonic = q.mnemonic) :
    r = q := by
  have hrows : ∀ r ∈ opcodeTable, ∀ q ∈ opcodeTable, r.mnemonic = q.mnemonic → r = q := by decide
  exact hrows r hr q hq h

/-- A row whose mask covers OP is selected by the words with its opcode whose ARG is zero under the rest of the mask. -/
theorem selects_append_iff {mnemonic : String} {opcode op : Opcode} {reserved arg : Arg} :
    TableRow.selects { mnemonic, pattern := opcode ++ 0#64, mask := 0xFF#8 ++ reserved } (op ++ arg) = true ↔
      op = opcode ∧ arg &&& reserved = 0#64 := by
  have hmask : op &&& 0xFF#8 = op := BitVec.and_allOnes
  rw [TableRow.selects, beq_iff_eq, BitVec.and_append, append_inj_iff, hmask]

/-- Masking ARG with XFORM's reserved bits (spec/30_encoding.md R47) leaves ARG[63:16]. -/
theorem and_reserved_eq_zero_iff {arg : Arg} :
    arg &&& 0xFFFFFFFFFFFF0000#64 = 0#64 ↔ arg.extractLsb' 16 48 = 0#48 := by
  obtain ⟨high, low, rfl⟩ := exists_eq_append (w := 48) (v := 16) arg
  have hmask : 0xFFFFFFFFFFFF0000#64 = BitVec.allOnes 48 ++ 0#16 := by decide
  have hzero : 0#64 = 0#48 ++ 0#16 := by decide
  rw [hmask, hzero, BitVec.and_append, append_inj_iff, BitVec.and_allOnes, BitVec.and_zero, and_iff_left rfl,
    BitVec.extractLsb'_append_eq_left]

/-- A word that selects a row is the encoding of a command with the row's mnemonic. -/
theorem exists_encode_of_selects {r : TableRow} (hr : r ∈ opcodeTable) {cw : CommandWord} (h : r.selects cw = true) :
    ∃ i : Instr, encode i = cw ∧ i.mnemonic = r.mnemonic := by
  obtain ⟨op, arg, rfl⟩ := exists_eq_append (w := 8) (v := 64) cw
  simp only [opcodeTable, List.mem_cons, List.not_mem_nil, or_false] at hr
  rcases hr with rfl | rfl | rfl | rfl | rfl
  · obtain ⟨rfl, -⟩ := selects_append_iff (opcode := 0x01#8) (reserved := 0#64) |>.1 h
    exact ⟨.setkey arg, rfl, rfl⟩
  · obtain ⟨rfl, harg⟩ := selects_append_iff (opcode := 0x02#8) (reserved := BitVec.allOnes 64) |>.1 h
    rw [BitVec.and_allOnes] at harg
    exact ⟨.reset, harg ▸ rfl, rfl⟩
  · obtain ⟨rfl, harg⟩ := selects_append_iff (opcode := 0x03#8) (reserved := BitVec.allOnes 64) |>.1 h
    rw [BitVec.and_allOnes] at harg
    exact ⟨.nextbit, harg ▸ rfl, rfl⟩
  · obtain ⟨rfl, -⟩ := selects_append_iff (opcode := 0x04#8) (reserved := 0#64) |>.1 h
    exact ⟨.start arg, rfl, rfl⟩
  · obtain ⟨rfl, harg⟩ := selects_append_iff (opcode := 0x05#8) (reserved := 0xFFFFFFFFFFFF0000#64) |>.1 h
    have hsample : (arg.extractLsb' 0 16).setWidth 64 = arg :=
      setWidth_sample_eq_iff.2 ⟨and_reserved_eq_zero_iff.1 harg, rfl⟩
    exact ⟨.xform (arg.extractLsb' 0 16), append_inj_iff.2 ⟨rfl, hsample⟩, rfl⟩

/-- Settles O8: a selected row gives the command, and a command's own row is the only one of its mnemonic. -/
theorem decoderAgreesWithTheOpcodeTable : Obligations.DecoderAgreesWithTheOpcodeTable := by
  simp only [Obligations.DecoderAgreesWithTheOpcodeTable, decode_eq_ok_iff]
  refine ⟨fun cw r hr => ⟨exists_encode_of_selects hr, ?_⟩, ?_⟩
  · rintro ⟨i, rfl, hmnemonic⟩
    obtain ⟨-, q, hq, hqi, hselects⟩ := tableWord_statement i
    rwa [eq_of_mnemonic_eq hr hq (hmnemonic.symm.trans hqi.symm)]
  · rintro cw i -
    obtain ⟨-, q, hq, hqi, -⟩ := tableWord_statement i
    exact ⟨q, hq, hqi⟩

/-! The response word (spec/30_encoding.md R50, R51). -/

@[simp] theorem Status.ofCode_code (st : Status) : Status.ofCode st.code = some st := by
  cases st <;> rfl

theorem Status.code_toNat_lt (st : Status) : st.code.toNat < 8 := by
  cases st <;> decide

/-- The numbers 0x8 to 0xF are no status. -/
theorem Status.ofCode_eq_none {c : BitVec 4} (h : 8 ≤ c.toNat) : Status.ofCode c = none := by
  rw [Status.ofCode, List.find?_eq_none]
  intro st _ hst
  have hc : st.code = c := beq_iff_eq.1 hst
  have := hc ▸ st.code_toNat_lt
  omega

theorem Response.word_st (r : Response) : r.word.extractLsb' 16 4 = r.st.code :=
  BitVec.extractLsb'_append_eq_left

theorem Response.word_data (r : Response) : r.word.extractLsb' 0 16 = r.data :=
  BitVec.extractLsb'_append_eq_right

/-- Settles O12: the two fields of the word, the eight numbers, and that a status number is below 8. -/
theorem responseWordHoldsStatusAndData : Obligations.ResponseWordHoldsStatusAndData := by
  refine ⟨fun r => ⟨r.word_st, r.word_data, ?_⟩, by decide, fun w h => ?_⟩
  · simp [Response.ofWord, r.word_st, r.word_data]
  · simp [Response.ofWord, Status.ofCode_eq_none h]

end Sys2Proof

namespace Sys2Proof.Machine

/-! Illegal words (spec/30_encoding.md R53, R54). -/

/-- Settles O10: no command has such fields, so the decoder rejects the word. -/
theorem illegalWordsAreAnsweredIllegalCommand : Obligations.IllegalWordsAreAnsweredIllegalCommand := by
  intro s op arg rest hin hillegal
  cases hd : decode (op ++ arg) with
  | error e => exact step_of_case (.illegal _ rest e hin hd)
  | ok i =>
    obtain ⟨rfl, rfl⟩ := decode_append_eq_ok_iff.1 hd
    exfalso
    cases i <;> simp [Instr.opcode, Instr.arg] at hillegal

/-! DATA of a response (spec/30_encoding.md R52). -/

theorem clamp_inRange (raw : Int) (w : WidthReg) : inRange w (clamp raw w) := by
  have hrange : rangeLo w ≤ rangeHi w := by
    simp only [rangeLo, rangeHi]
    split <;> decide
  exact ⟨le_min (le_max_right _ _) hrange, min_le_right _ _⟩

theorem bitData_eq_zero_or_one (z : Bool) : bitData z = 0#16 ∨ bitData z = 1#16 := by
  cases z
  · exact .inl rfl
  · exact .inr rfl

theorem sampleData_one_toNat_le {v : Int} (h : inRange 1#2 v) : (sampleData 1#2 v).toNat ≤ 255 := by
  obtain ⟨n, rfl, hn⟩ := exists_nat_of_inRange_one h
  have hdata : sampleData 1#2 n = BitVec.ofNat 16 n := rfl
  rw [hdata, BitVec.toNat_ofNat]
  omega

/-- The response of a command has DATA 0, or is the bit of NEXTBIT or the sample of XFORM. -/
theorem ExecCase.response_cases {i : Instr} {s t : State} {r : Response} (hc : ExecCase i s t)
    (hout : t.out = s.out ++ [r]) :
    r.data = 0#16 ∨ (i = .nextbit ∧ ∃ z, r = { st := .ok, data := bitData z }) ∨
      ∃ sample v k, i = .xform sample ∧ r = { st := .ok, data := sampleData s.w (transform s.w k v) } := by
  cases hc with
  | nextbit hi => exact .inr (.inl ⟨hi, _, by simpa using hout.symm⟩)
  | xform sample v hi => exact .inr (.inr ⟨sample, v, _, hi, by simpa using hout.symm⟩)
  | _ =>
    left
    obtain rfl := List.singleton_inj.1 (List.append_cancel_left hout)
    rfl

/-- Settles O39, by the kinds of response: a bit is 0 or 1, and CLAMP keeps a one-byte result at most 255. -/
theorem dataFieldPerCommand : Obligations.DataFieldPerCommand := by
  intro i s t r h hout
  rcases (exec_cases h).response_cases hout with hzero | ⟨rfl, z, rfl⟩ | ⟨sample, v, k, rfl, rfl⟩
  · refine ⟨fun _ => hzero, ?_⟩
    cases i with
    | setkey | reset | start => exact hzero
    | nextbit => exact .inl hzero
    | xform => simp [hzero]
  · exact ⟨fun hst => absurd rfl hst, bitData_eq_zero_or_one z⟩
  · refine ⟨fun hst => absurd rfl hst, fun hw => ?_⟩
    rw [hw]
    exact sampleData_one_toNat_le (clamp_inRange _ _)

/-! Responses of a run (spec/30_encoding.md R50). -/

theorem exists_exec_eq_next (i : Instr) (s : State) : ∃ t, exec i s = .next t := by
  cases i with
  | setkey key => exact ⟨_, rfl⟩
  | reset => simp only [exec, execReset]; split <;> exact ⟨_, rfl⟩
  | nextbit => simp only [exec, execNextbit]; split <;> exact ⟨_, rfl⟩
  | start width =>
    simp only [exec, execStart]
    split
    · exact ⟨_, rfl⟩
    · split <;> exact ⟨_, rfl⟩
  | xform sample =>
    simp only [exec, execXform]
    split
    · exact ⟨_, rfl⟩
    · split
      · exact ⟨_, rfl⟩
      · split <;> exact ⟨_, rfl⟩

/-- A command gives one response and leaves the host's further events. -/
theorem ExecCase.input_out {i : Instr} {s t : State} (h : ExecCase i s t) :
    t.input = s.input ∧ ∃ r, t.out = s.out ++ [r] := by
  cases h <;> exact ⟨rfl, _, rfl⟩

/-- Serving an event is one step, which adds one response for a command and none for HRESET. -/
theorem exists_step_of_input_cons {s : State} {e : HostEvent} {rest : List HostEvent} (hin : s.input = e :: rest) :
    ∃ t added, step s = .next t ∧ t.input = rest ∧ t.out = s.out ++ added ∧ added.length = commandCount [e] := by
  cases e with
  | hreset => exact ⟨_, [], step_of_case (.hreset rest hin), rfl, by simp, rfl⟩
  | command cw =>
    cases hd : decode cw with
    | error err => exact ⟨_, [_], step_of_case (.illegal cw rest err hin hd), rfl, rfl, rfl⟩
    | ok i =>
      obtain ⟨t, ht⟩ := exists_exec_eq_next i { s with input := rest }
      obtain ⟨hinput, r, hout⟩ := (exec_cases ht).input_out
      exact ⟨t, [r], (step_of_decode_ok hin hd).trans ht, hinput, hout, rfl⟩

theorem commandCount_cons (e : HostEvent) (rest : List HostEvent) :
    commandCount (e :: rest) = commandCount [e] + commandCount rest := by
  cases e <;> simp [commandCount, Nat.add_comm]

/-- Settles O44, by induction on the host's events. -/
theorem exactlyOneResponsePerCommand : Obligations.ExactlyOneResponsePerCommand := by
  intro s
  induction hin : s.input generalizing s with
  | nil => exact ⟨s, rfl, hin, List.prefix_refl _, rfl⟩
  | cons e rest ih =>
    obtain ⟨t, added, hstep, hinput, hout, hadded⟩ := exists_step_of_input_cons hin
    obtain ⟨u, hrun, hdone, hprefix, hcount⟩ := ih t hinput
    refine ⟨u, run_succ_eq_next_iff.2 ⟨t, hstep, hrun⟩, hdone, ?_, ?_⟩
    · exact (hout ▸ List.prefix_append s.out added).trans hprefix
    · rw [hcount, hout, List.length_append, hadded, commandCount_cons e rest, Nat.add_assoc]

end Sys2Proof.Machine

/-! PROOFS. The statements about the shift registers (spec/40_shift_register.md). First FEEDBACK along its taps and CLOCK bit
by bit, on which every statement rests. -/

namespace Sys2Proof.Machine

variable {n : Nat}

/-! FEEDBACK (spec/40_shift_register.md R65, R66). -/

@[simp] theorem feedback_nil (x : BitVec n) : feedback x [] = false := rfl

@[simp] theorem feedback_cons (x : BitVec n) (t : Fin n) (ts : List (Fin n)) :
    feedback x (t :: ts) = (x.getLsbD t.val ^^ feedback x ts) := rfl

theorem feedback_append (x : BitVec n) (ts us : List (Fin n)) :
    feedback x (ts ++ us) = (feedback x ts ^^ feedback x us) := by
  induction ts with
  | nil => simp
  | cons t ts ih => simp [ih]

theorem feedback_xor (x y : BitVec n) (taps : List (Fin n)) :
    feedback (x ^^^ y) taps = (feedback x taps ^^ feedback y taps) := by
  induction taps with
  | nil => rfl
  | cons t ts ih => simp only [feedback_cons, ih, BitVec.getLsbD_xor, Bool.xor_assoc, Bool.xor_left_comm]

/-- Settles O15, by induction on the taps: a tapped 1 flips both FEEDBACK and the parity, a tapped 0 neither. -/
theorem feedbackIsTheParityOfTheTappedBits : Obligations.FeedbackIsTheParityOfTheTappedBits := by
  intro n x taps
  induction taps with
  | nil => simp
  | cons t ts ih =>
    rw [feedback_cons, List.filter_cons]
    cases x.getLsbD t.val with
    | false => simpa using ih
    | true =>
      rw [if_pos rfl, List.length_cons, Bool.true_xor, Bool.not_eq_true', ← Bool.not_eq_true, ih]
      omega

/-- Settles O16: FEEDBACK along each of the three tap sets. -/
theorem feedbackOfTheThreeRegisters : Obligations.FeedbackOfTheThreeRegisters := by
  refine ⟨fun x => ?_, fun x => ?_, fun x => ?_⟩
  · simp [taps1]
  · simp [taps2]
  · simp [taps3]

/-! CLOCK, bit by bit and on the integer value (spec/40_shift_register.md R67, R68). -/

theorem clock_getLsbD (x : BitVec n) (taps : List (Fin n)) (j : Nat) :
    (clock x taps).getLsbD j = (decide (j < n) && if j = 0 then feedback x taps else x.getLsbD (j - 1)) :=
  BitVec.getLsbD_shiftConcat x _ j

theorem clock_getLsbD_zero (x : BitVec n) (taps : List (Fin n)) (hn : 0 < n) :
    (clock x taps).getLsbD 0 = feedback x taps := by
  rw [clock_getLsbD, decide_eq_true hn, Bool.true_and, if_pos rfl]

theorem clock_getLsbD_succ (x : BitVec n) (taps : List (Fin n)) {j : Nat} (hj : j + 1 < n) :
    (clock x taps).getLsbD (j + 1) = x.getLsbD j := by
  rw [clock_getLsbD, decide_eq_true hj, Bool.true_and, if_neg j.succ_ne_zero, Nat.add_sub_cancel]

/-- Settles O17. -/
theorem clockInsertsFeedbackAndShifts : Obligations.ClockInsertsFeedbackAndShifts := by
  intro n x taps hn
  refine ⟨clock_getLsbD_zero x taps hn, fun j hj hjn => ?_⟩
  obtain ⟨i, rfl⟩ := Nat.exists_eq_add_of_le' hj
  exact clock_getLsbD_succ x taps hjn

/-- Bit 0 of a doubled number is 0, so adding a bit there carries nowhere and no reduction touches it. -/
theorem two_mul_add_bit_mod_two_pow (a : Nat) (b : Bool) (m : Nat) :
    (2 * a + b.toNat) % 2 ^ (m + 1) = 2 * a % 2 ^ (m + 1) + b.toNat := by
  have hb : b.toNat < 2 := b.toNat_lt
  have hlow : (2 * a + b.toNat) % 2 = b.toNat := by omega
  have hhigh : (2 * a + b.toNat) / 2 = a := by omega
  rw [Nat.pow_succ', Nat.mod_mul, hlow, hhigh, Nat.mul_mod_mul_left, Nat.add_comm]

/-- Settles O18: the shift doubles the value, and the feedback fills the bit this leaves 0. -/
theorem clockOnTheIntegerValue : Obligations.ClockOnTheIntegerValue := by
  intro n x taps hn
  obtain ⟨m, rfl⟩ := Nat.exists_eq_add_of_le' hn
  rw [clock, BitVec.toNat_shiftConcat, Nat.shiftLeft_eq, Nat.pow_one, Nat.mul_comm x.toNat]
  exact two_mul_add_bit_mod_two_pow x.toNat _ m

/-- Settles O20: each bit of CLOCK is linear, the head because FEEDBACK is. -/
theorem clockIsLinear : Obligations.ClockIsLinear := by
  intro n x y taps
  apply BitVec.eq_of_getLsbD_eq
  intro j hj
  cases j with
  | zero => simp only [BitVec.getLsbD_xor, clock_getLsbD_zero _ _ hj, feedback_xor]
  | succ i => simp only [BitVec.getLsbD_xor, clock_getLsbD_succ _ _ hj]

/-! The inverse of CLOCK for taps that hold the tail (spec/40_shift_register.md R68). -/

/-- Below the tail, the inverse shifts back. -/
theorem unclock_getLsbD_of_lt (y : BitVec (n + 1)) (ts : List (Fin (n + 1))) {j : Nat} (hj : j < n) :
    (unclock y ts).getLsbD j = y.getLsbD (j + 1) := by
  rw [unclock, BitVec.getLsbD_cons, if_neg hj.ne, BitVec.getLsbD_extractLsb', decide_eq_true hj, Bool.true_and,
    Nat.add_comm 1 j]

/-- At the tail, the inverse takes out of the head the FEEDBACK of the other taps, whose bits stand one place up in y. -/
theorem unclock_getLsbD_tail {x y : BitVec (n + 1)} {ts : List (Fin (n + 1))}
    (habove : ∀ t ∈ ts, y.getLsbD (t.val + 1) = x.getLsbD t.val) :
    (unclock y ts).getLsbD n = (y.getLsbD 0 ^^ feedback x ts) := by
  rw [unclock, BitVec.getLsbD_cons, if_pos rfl]
  congr 1
  induction ts with
  | nil => rfl
  | cons t ts ih =>
    rw [List.forall_mem_cons] at habove
    rw [List.foldr_cons, feedback_cons, habove.1, ih habove.2]

/-- With the tail among the taps, the head of CLOCK still tells the tail that the shift drops. -/
theorem unclock_clock (x : BitVec (n + 1)) {ts : List (Fin (n + 1))} (hts : ∀ t ∈ ts, t.val < n) :
    unclock (clock x (ts ++ [Fin.last n])) ts = x := by
  have habove : ∀ j < n, (clock x (ts ++ [Fin.last n])).getLsbD (j + 1) = x.getLsbD j :=
    fun j hj => clock_getLsbD_succ x _ (Nat.succ_lt_succ hj)
  have hhead : (clock x (ts ++ [Fin.last n])).getLsbD 0 = (feedback x ts ^^ x.getLsbD n) := by
    rw [clock_getLsbD_zero _ _ n.succ_pos, feedback_append, feedback_cons, feedback_nil, Bool.xor_false, Fin.val_last]
  apply BitVec.eq_of_getLsbD_eq
  intro j hj
  rcases Nat.lt_succ_iff_lt_or_eq.1 hj with hlt | rfl
  · rw [unclock_getLsbD_of_lt _ _ hlt, habove j hlt]
  · rw [unclock_getLsbD_tail fun t ht => habove t.val (hts t ht), hhead, Bool.xor_right_comm, Bool.xor_self,
      Bool.false_xor]

/-- On the finitely many values of a register, a left inverse is an inverse. -/
theorem clock_unclock (y : BitVec (n + 1)) {ts : List (Fin (n + 1))} (hts : ∀ t ∈ ts, t.val < n) :
    clock (unclock y ts) (ts ++ [Fin.last n]) = y := by
  have hleft : Function.LeftInverse (unclock · ts) (clock · (ts ++ [Fin.last n])) := fun x => unclock_clock x hts
  exact hleft.rightInverse_of_surjective (Finite.surjective_of_injective hleft.injective) y

/-! The three tap sets end in the tail, and no other tap of theirs is the tail (spec/10_state.md R12). -/

theorem taps1_eq_append_tail : taps1 = [13, 16, 17] ++ [Fin.last 18] := rfl

theorem taps2_eq_append_tail : taps2 = [20] ++ [Fin.last 21] := rfl

theorem taps3_eq_append_tail : taps3 = [7, 20, 21] ++ [Fin.last 22] := rfl

/-- Settles O19: each tap set is other taps followed by the tail. -/
theorem clockIsInvertible : Obligations.ClockIsInvertible := by
  refine ⟨fun x => ?_, fun x => ?_, fun x => ?_⟩
  · rw [taps1_eq_append_tail]
    exact ⟨unclock_clock (n := 18) x (by decide), clock_unclock (n := 18) x (by decide)⟩
  · rw [taps2_eq_append_tail]
    exact ⟨unclock_clock (n := 21) x (by decide), clock_unclock (n := 21) x (by decide)⟩
  · rw [taps3_eq_append_tail]
    exact ⟨unclock_clock (n := 22) x (by decide), clock_unclock (n := 22) x (by decide)⟩

end Sys2Proof.Machine

/-! PROOFS. The statements about the keystream generator (spec/41_keystream_generator.md): MAJORITY and CLOCKALL on any
registers, the document's lists of bits, and then NEXTBIT, GEN and the splits of GEN as closed forms over the keystream. -/

namespace Sys2Proof.Machine

/-! MAJORITY (spec/41_keystream_generator.md R75, R76): of three bits two agree, and MAJORITY is their value. -/

theorem two_of_three_agree (c1 c2 c3 : Bool) : c1 = c2 ∨ c1 = c3 ∨ c2 = c3 := by
  cases c1 <;> cases c2 <;> simp

@[simp] theorem majorityOf_agree12 (a b : Bool) : majorityOf a a b = a := by
  cases a <;> cases b <;> rfl

@[simp] theorem majorityOf_agree13 (a b : Bool) : majorityOf a b a = a := by
  cases a <;> cases b <;> rfl

@[simp] theorem majorityOf_agree23 (a b : Bool) : majorityOf b a a = a := by
  cases a <;> cases b <;> rfl

/-- Settles O21, by which two of the bits agree. -/
theorem majorityIsHeldByTwo : Obligations.MajorityIsHeldByTwo := by
  intro c1 c2 c3
  rcases two_of_three_agree c1 c2 c3 with rfl | rfl | rfl
  · cases c1 <;> simp
  · cases c1 <;> simp
  · cases c2 <;> simp

/-! CLOCKALL (spec/41_keystream_generator.md R77, R79). -/

theorem majority_of_agree12 {g : Regs} (h : clockBit1 g.r1 = clockBit2 g.r2) : majority g = clockBit1 g.r1 := by
  rw [majority, ← h, majorityOf_agree12]

theorem majority_of_agree13 {g : Regs} (h : clockBit1 g.r1 = clockBit3 g.r3) : majority g = clockBit1 g.r1 := by
  rw [majority, ← h, majorityOf_agree13]

theorem majority_of_agree23 {g : Regs} (h : clockBit2 g.r2 = clockBit3 g.r3) : majority g = clockBit2 g.r2 := by
  rw [majority, ← h, majorityOf_agree23]

theorem two_le_clockedCount (g : Regs) : 2 ≤ clockedCount g :=
  (majorityIsHeldByTwo _ _ _).2

theorem clockedCount_eq_three_iff (g : Regs) :
    clockedCount g = 3 ↔ clockBit1 g.r1 = majority g ∧ clockBit2 g.r2 = majority g ∧ clockBit3 g.r3 = majority g := by
  have h1 := Bool.toNat_le (clockBit1 g.r1 == majority g)
  have h2 := Bool.toNat_le (clockBit2 g.r2 == majority g)
  have h3 := Bool.toNat_le (clockBit3 g.r3 == majority g)
  have htoNat (a b : Bool) : a = b ↔ (a == b).toNat = 1 := by simp
  rw [clockedCount, htoNat, htoNat, htoNat]
  omega

theorem clockedCount_le_three (g : Regs) : clockedCount g ≤ 3 :=
  Nat.add_le_add (Nat.add_le_add (Bool.toNat_le _) (Bool.toNat_le _)) (Bool.toNat_le _)

/-- Settles O22: the registers clocked are those that hold the majority, which is the value of any two that agree. -/
theorem everyStepClocksTwoOrThreeRegisters : Obligations.EveryStepClocksTwoOrThreeRegisters := by
  intro g
  refine ⟨two_le_clockedCount g, clockedCount_le_three g, ?_, fun h12 h23 => ?_, fun h23 hne => ?_, fun h13 hne => ?_,
    fun h12 hne => ?_⟩
  · rw [clockedCount_eq_three_iff]
    constructor
    · rintro ⟨h1, h2, h3⟩
      exact ⟨h1.trans h2.symm, h2.trans h3.symm⟩
    · rintro ⟨h12, h23⟩
      have hm := majority_of_agree12 h12
      exact ⟨hm.symm, h12.symm.trans hm.symm, (h12.trans h23).symm.trans hm.symm⟩
  · simp [clockAll, majority_of_agree12 h12, ← h23, ← h12]
  · simp [clockAll, majority_of_agree23 h23, hne, ← h23]
  · simp [clockAll, majority_of_agree13 h13, hne, ← h13]
  · simp [clockAll, majority_of_agree12 h12, hne, ← h12]

/-! The document's lists of bits (spec/40_shift_register.md R70): each operation on a list is the bit vector's, read through
the index convention. -/

section Lists

variable {n : Nat}

theorem indexBits_getD (x : BitVec n) (j : Nat) : (indexBits x).getD j false = x.getLsbD j := by
  by_cases hj : j < n
  · simp [indexBits, hj]
  · simp [indexBits, hj, BitVec.getLsbD_of_ge x j (Nat.le_of_not_lt hj)]

theorem indexBits_succ_eq_append_tail (x : BitVec (n + 1)) :
    indexBits x = (List.range n).map (fun j => x.getLsbD j) ++ [x.getLsbD n] := by
  rw [indexBits, List.range_succ, List.map_append, List.map_singleton]

theorem indexBits_getLastD (x : BitVec (n + 1)) : (indexBits x).getLastD false = x.getLsbD n := by
  rw [indexBits_succ_eq_append_tail, List.getLastD_concat]

theorem listFeedback_indexBits (x : BitVec n) (taps : List (Fin n)) :
    listFeedback (indexBits x) (taps.map Fin.val) = feedback x taps := by
  induction taps with
  | nil => rfl
  | cons t ts ih => rw [List.map_cons, listFeedback, indexBits_getD, ih, feedback_cons]

/-- Inserting the feedback at the head and dropping the tail is CLOCK. -/
theorem listClock_indexBits (x : BitVec (n + 1)) (taps : List (Fin (n + 1))) :
    listClock (indexBits x) (taps.map Fin.val) = indexBits (clock x taps) := by
  have hkept : (indexBits x).dropLast = (List.range n).map (fun j => (clock x taps).getLsbD (j + 1)) := by
    rw [indexBits_succ_eq_append_tail, List.dropLast_concat]
    refine List.map_congr_left fun j hj => (clock_getLsbD_succ x taps ?_).symm
    exact Nat.succ_lt_succ (List.mem_range.1 hj)
  rw [listClock, listFeedback_indexBits, hkept, indexBits, List.range_succ_eq_map, List.map_cons, List.map_map,
    clock_getLsbD_zero x taps n.succ_pos]
  rfl

end Lists

theorem listMajority_bits (g : Regs) : listMajority g.bits = majority g := by
  simp only [listMajority, Regs.bits, indexBits_getD]
  rfl

theorem listTurn1_bits (m : Bool) (g : Regs) :
    listTurn1 m g.bits = Regs.bits { g with r1 := if clockBit1 g.r1 = m then clock g.r1 taps1 else g.r1 } := by
  have hclock : listClock (indexBits g.r1) [13, 16, 17, 18] = indexBits (clock g.r1 taps1) := listClock_indexBits _ taps1
  rw [listTurn1, Regs.bits, indexBits_getD, ← clockBit1, hclock]
  split <;> rfl

theorem listTurn2_bits (m : Bool) (g : Regs) :
    listTurn2 m g.bits = Regs.bits { g with r2 := if clockBit2 g.r2 = m then clock g.r2 taps2 else g.r2 } := by
  have hclock : listClock (indexBits g.r2) [20, 21] = indexBits (clock g.r2 taps2) := listClock_indexBits _ taps2
  rw [listTurn2, Regs.bits, indexBits_getD, ← clockBit2, hclock]
  split <;> rfl

theorem listTurn3_bits (m : Bool) (g : Regs) :
    listTurn3 m g.bits = Regs.bits { g with r3 := if clockBit3 g.r3 = m then clock g.r3 taps3 else g.r3 } := by
  have hclock : listClock (indexBits g.r3) [7, 20, 21, 22] = indexBits (clock g.r3 taps3) := listClock_indexBits _ taps3
  rw [listTurn3, Regs.bits, indexBits_getD, ← clockBit3, hclock]
  split <;> rfl

/-- A register's turn writes that register only, so the later turns read what they would have read before it. -/
theorem listClockAll_bits (g : Regs) : listClockAll g.bits = (clockAll g).bits := by
  rw [listClockAll, listMajority_bits, listTurn1_bits, listTurn2_bits, listTurn3_bits]
  rfl

theorem listNextBit_bits (g : Regs) : listNextBit g.bits = (outBit (clockAll g), (clockAll g).bits) := by
  rw [listNextBit, listClockAll_bits]
  simp only [Regs.bits, indexBits_getLastD]
  rfl

/-- Settles O23. -/
theorem clockAllAgreesWithTheDocumentForm : Obligations.ClockAllAgreesWithTheDocumentForm :=
  fun g => ⟨(listClockAll_bits g).symm, by rw [listNextBit_bits]⟩

/-! The keystream from any registers (spec/41_keystream_generator.md R82, R85). -/

theorem clockAllN_add (m n : Nat) (g : Regs) : clockAllN (m + n) g = clockAllN n (clockAllN m g) := by
  simp only [clockAllN_eq_iterate, Nat.add_comm m n, Function.iterate_add_apply]

theorem keystream_add (m n : Nat) (g : Regs) : keystream (m + n) g = keystream m g ++ keystream n (clockAllN m g) := by
  induction m generalizing g with
  | zero => rw [Nat.zero_add]; rfl
  | succ m ih => rw [Nat.add_right_comm, keystream, keystream, ih, List.cons_append, clockAllN]

/-! Issuing commands that succeed (spec/20_memory.md R36). -/

/-- The host gets the response that the command's case adds. -/
theorem issue_of_execCase {i : Instr} {s t : State} {r : Response} {log : List Response} (hc : ExecCase i s t)
    (hout : t.out = log ++ [r]) : issue (encode i) s = some (t, r) := by
  apply issue_of_step _ hout
  rw [step_place_command, decode_eq_ok_iff.2 rfl]
  exact exec_of_case hc

theorem issue_setkey (key : Key) (s : State) :
    issue (encode (.setkey key)) s
      = some ((((s.setKey key).setRegs (initRegs key)).setKeyValid).respond .ok 0#16, { st := .ok, data := 0#16 }) :=
  issue_of_execCase (.setkey key rfl) rfl

theorem issue_reset {s : State} (hk : s.kv = true) :
    issue (encode .reset) s = some ((s.setRegs (initRegs s.k)).respond .ok 0#16, { st := .ok, data := 0#16 }) :=
  issue_of_execCase (.reset rfl hk) rfl

theorem issue_nextbit {s : State} (hk : s.kv = true) :
    issue (encode .nextbit) s = some ((s.setRegs (clockAll s.regs)).respond .ok (bitData (outBit (clockAll s.regs))),
      { st := .ok, data := bitData (outBit (clockAll s.regs)) }) :=
  issue_of_execCase (.nextbit rfl hk) rfl

theorem bitData_eq_ite (z : Bool) : bitData z = if z then 1#16 else 0#16 := by
  cases z <;> rfl

/-- Settles O32. -/
theorem nextbitCompletesWithAKey : Obligations.NextbitCompletesWithAKey := by
  intro s hk
  rw [exec_of_case (.nextbit rfl hk), bitData_eq_ite]
  rfl

/-! GEN (spec/41_keystream_generator.md R82). -/

section Gen

variable {n : Nat} {s t u : State} {r : Response} {bits : List Bool}

theorem gen_succ_of_ok (hissue : issue (encode .nextbit) s = some (t, r)) (hr : r.st = .ok)
    (hgen : gen n t = some (u, .ok bits)) : gen (n + 1) s = some (u, .ok (r.data.getLsbD 0 :: bits)) := by
  simp [gen, hissue, hr, hgen]

theorem gen_succ_of_not_ok (n : Nat) (hissue : issue (encode .nextbit) s = some (t, r)) (hr : r.st ≠ .ok) :
    gen (n + 1) s = some (t, .error r.st) := by
  simp [gen, hissue, hr]

/-- The state after n NEXTBIT commands that succeed: n positions further on, with one response for each bit. -/
def State.afterNextbits (n : Nat) (s : State) : State :=
  { s with
    regs := clockAllN n s.regs
    out := s.out ++ (keystream n s.regs).map (fun z => { st := .ok, data := if z then 1#16 else 0#16 }) }

theorem State.afterNextbits_zero (s : State) : s.afterNextbits 0 = s := by
  simp [State.afterNextbits, clockAllN, keystream]

theorem State.afterNextbits_succ (n : Nat) (s : State) :
    s.afterNextbits (n + 1)
      = ((s.setRegs (clockAll s.regs)).respond .ok (bitData (outBit (clockAll s.regs)))).afterNextbits n := by
  simp [State.afterNextbits, clockAllN, keystream, State.respond_eq, State.setRegs, bitData_eq_ite]

theorem State.afterNextbits_add (m n : Nat) (s : State) :
    s.afterNextbits (m + n) = (s.afterNextbits m).afterNextbits n := by
  simp [State.afterNextbits, clockAllN_add, keystream_add]

theorem gen_of_key (n : Nat) (hk : s.kv = true) : gen n s = some (s.afterNextbits n, .ok (keystream n s.regs)) := by
  induction n generalizing s with
  | zero => rw [State.afterNextbits_zero]; rfl
  | succ n ih =>
    rw [gen_succ_of_ok (issue_nextbit hk) rfl (ih hk), bitData_getLsbD_zero, ← State.afterNextbits_succ]
    rfl

theorem gen_succ_of_no_key (n : Nat) (hk : s.kv = false) : gen (n + 1) s = some (s.raise .noKey, .error .noKey) :=
  gen_succ_of_not_ok n (issue_of_execCase (.noKey hk (.inr (.inl rfl))) rfl) (by decide)

end Gen

/-- Settles O26. -/
theorem genReturnsTheNextBits : Obligations.GenReturnsTheNextBits :=
  ⟨fun n _ hk => gen_of_key n hk, fun n _ hk => gen_succ_of_no_key n hk, fun _ => rfl⟩

/-! GEN after key loading (spec/42_key_scheduler.md R95, R96): the keystream of the key, whatever the state held before. -/

theorem exists_issue_setkey_gen (key : Key) (n : Nat) (s : State) :
    ∃ t u, issue (encode (.setkey key)) s = some (t, { st := .ok, data := 0#16 }) ∧
      gen n t = some (u, .ok (keystream n (initRegs key))) ∧ u.regs = clockAllN n (initRegs key) :=
  ⟨_, _, issue_setkey key s, gen_of_key n rfl, rfl⟩

theorem exists_issue_reset_gen (n : Nat) {s : State} (hk : s.kv = true) :
    ∃ t u, issue (encode .reset) s = some (t, { st := .ok, data := 0#16 }) ∧
      gen n t = some (u, .ok (keystream n (initRegs s.k))) ∧ u.regs = clockAllN n (initRegs s.k) :=
  ⟨_, _, issue_reset hk, gen_of_key n hk, rfl⟩

/-! Splits of GEN (spec/41_keystream_generator.md R83). -/

section Parts

variable {n : Nat} {parts : List Nat} {s t u : State} {bits more : List Bool}

theorem genParts_cons_of_ok (hgen : gen n s = some (t, .ok bits)) (hparts : genParts parts t = some (u, .ok more)) :
    genParts (n :: parts) s = some (u, .ok (bits ++ more)) := by
  simp [genParts, hgen, hparts]

theorem genParts_cons_of_error {e : Status} (parts : List Nat) (hgen : gen n s = some (t, .error e)) :
    genParts (n :: parts) s = some (t, .error e) := by
  simp [genParts, hgen]

theorem genParts_zero_cons (parts : List Nat) (s : State) : genParts (0 :: parts) s = genParts parts s := by
  rcases hp : genParts parts s with _ | ⟨u, e | more⟩ <;> simp [genParts, gen, hp]

theorem genParts_of_key (parts : List Nat) (hk : s.kv = true) : genParts parts s = gen parts.sum s := by
  induction parts generalizing s with
  | nil => rfl
  | cons n parts ih =>
    have hk' : (s.afterNextbits n).kv = true := hk
    rw [genParts_cons_of_ok (gen_of_key n hk) ((ih hk').trans (gen_of_key _ hk')), List.sum_cons, gen_of_key _ hk,
      State.afterNextbits_add, keystream_add]
    rfl

/-- Without a key the first part that issues a command fails, as the whole does; the parts before it are empty. -/
theorem genParts_of_no_key (parts : List Nat) (hk : s.kv = false) : genParts parts s = gen parts.sum s := by
  induction parts with
  | nil => rfl
  | cons n parts ih =>
    cases n with
    | zero =>
      rw [genParts_zero_cons, ih, List.sum_cons, Nat.zero_add]
    | succ n =>
      rw [genParts_cons_of_error parts (gen_succ_of_no_key n hk), List.sum_cons, Nat.add_right_comm,
        gen_succ_of_no_key _ hk]

end Parts

/-- Settles O27: after RESET the registers are those of the key, and the keystream is all that GEN returns. -/
theorem keystreamIsDeterministicAndChunkInvariant : Obligations.KeystreamIsDeterministicAndChunkInvariant := by
  refine ⟨fun s t n hs ht hkey => ?_, fun parts s => ?_⟩
  · obtain ⟨s1, s2, hs1, hs2, -⟩ := exists_issue_reset_gen n hs
    obtain ⟨t1, t2, ht1, ht2, -⟩ := exists_issue_reset_gen n ht
    rw [hkey] at hs2
    exact ⟨s1, t1, s2, t2, _, _, hs1, ht1, hs2, ht2⟩
  · cases hk : s.kv with
    | true => exact genParts_of_key parts hk
    | false => exact genParts_of_no_key parts hk

/-! The all-zero key (spec/41_keystream_generator.md R84, spec/42_key_scheduler.md R103). -/

@[simp] theorem clockAll_zero : clockAll Regs.zero = Regs.zero := by
  decide

@[simp] theorem outBit_zero : outBit Regs.zero = false := rfl

@[simp] theorem xorHead_false {n : Nat} (x : BitVec n) : xorHead x false = x := by
  simp [xorHead]

@[simp] theorem injectBit_false (g : Regs) : injectBit g false = g := by
  simp [injectBit]

/-- Each round of the zero key clocks the zero registers and injects 0. -/
theorem keyRounds_zero (n : Nat) : keyRounds 0#64 n = Regs.zero := by
  induction n with
  | zero => rfl
  | succ n ih => simp [keyRounds, keyRound, ih, keyBit]

theorem initRegs_zero : initRegs 0#64 = Regs.zero :=
  keyRounds_zero rounds

theorem clockAllN_zero (n : Nat) : clockAllN n Regs.zero = Regs.zero := by
  rw [clockAllN_eq_iterate, Function.iterate_fixed clockAll_zero]

theorem keystream_zero (n : Nat) : keystream n Regs.zero = List.replicate n false := by
  induction n with
  | zero => rfl
  | succ n ih => rw [keystream, clockAll_zero, outBit_zero, ih, List.replicate_succ]

/-- Settles O25: SETKEY 0 leads to the zero registers, where every further bit is 0. -/
theorem allZeroKeyYieldsOnlyZeros : Obligations.AllZeroKeyYieldsOnlyZeros := by
  have hgen := fun s n => exists_issue_setkey_gen 0#64 n s
  simp only [initRegs_zero, keystream_zero, clockAllN_zero] at hgen
  exact ⟨clockAll_zero, outBit_zero, initRegs_zero, hgen⟩

end Sys2Proof.Machine

/-! PROOFS. The statements about the key scheduler (spec/42_key_scheduler.md): the key as a sequence of bits, key loading on
the registers and on the document's lists of bits, the commands SETKEY and RESET, and the key's exchange format. -/

namespace Sys2Proof.Machine

/-! The key as a sequence of bits (spec/42_key_scheduler.md R91, R101). -/

theorem key_eq_of_keyBit_eq {a b : Key} (h : ∀ i < 64, keyBit a i = keyBit b i) : a = b := by
  refine BitVec.eq_of_getLsbD_eq fun i hi => ?_
  have hbit := h (63 - i) (by omega)
  rwa [keyBit, keyBit, show 63 - (63 - i) = i by omega] at hbit

@[simp] theorem keyOfBits_concat (bits : List Bool) (b : Bool) :
    keyOfBits (bits ++ [b]) = (keyOfBits bits).shiftConcat b :=
  List.foldl_concat ..

/-- Each bit read pushes the ones before it one place up, so the last bit read is bit 0. -/
theorem keyOfBits_getLsbD (bits : List Bool) {i : Nat} (hi : i < 64) :
    (keyOfBits bits).getLsbD i = bits.reverse.getD i false := by
  induction bits using List.reverseRecOn generalizing i with
  | nil => simp [keyOfBits]
  | append_singleton bits b ih =>
    rw [keyOfBits_concat, BitVec.getLsbD_shiftConcat, List.reverse_concat]
    cases i with
    | zero => simp
    | succ i => simp [hi, ih (Nat.lt_of_succ_lt hi)]

theorem keyBit_keyOfBits {bits : List Bool} (hlen : bits.length = 64) {i : Nat} (hi : i < 64) :
    keyBit (keyOfBits bits) i = bits.getD i false := by
  rw [keyBit, keyOfBits_getLsbD bits (by omega)]
  rw [List.getD_eq_getElem?_getD, List.getElem?_reverse (by omega), List.getD_eq_getElem?_getD, hlen,
    show 64 - 1 - (63 - i) = i by omega]

/-- Settles O14: draw i is the bit at position i of the list that is read into the key. -/
theorem drawnKeyHasTheDrawnBits : Obligations.DrawnKeyHasTheDrawnBits := by
  intro draw i hi
  rw [keyFromSource, keyBit_keyOfBits (by simp) hi]
  simp [hi]

/-- Settles O13: a key drawn from its own bits is that key. -/
theorem keyBitsAreMostSignificantFirst : Obligations.KeyBitsAreMostSignificantFirst :=
  fun key => ⟨fun _ _ => rfl, key_eq_of_keyBit_eq fun i hi => drawnKeyHasTheDrawnBits (keyBit key) i hi⟩

/-! Key loading (spec/42_key_scheduler.md R92, R93). -/

/-- Settles O28: the three clauses are the equations of keyRounds. -/
theorem keyLoadingRounds : Obligations.KeyLoadingRounds :=
  fun _ => ⟨rfl, rfl, fun _ _ => rfl⟩

theorem xorHead_getLsbD_zero {n : Nat} (x : BitVec n) (b : Bool) (hn : 0 < n) :
    (xorHead x b).getLsbD 0 = (x.getLsbD 0 ^^ b) := by
  simp [xorHead, hn]

theorem xorHead_getLsbD_succ {n : Nat} (x : BitVec n) (b : Bool) (j : Nat) :
    (xorHead x b).getLsbD (j + 1) = x.getLsbD (j + 1) := by
  simp [xorHead]

/-- A clocked register takes the feedback and the injected bit into its head. -/
theorem xorHead_clock {n : Nat} (x : BitVec n) (taps : List (Fin n)) (b : Bool) :
    xorHead (clock x taps) b = x.shiftConcat (feedback x taps ^^ b) := by
  refine BitVec.eq_of_getLsbD_eq fun j hj => ?_
  rw [BitVec.getLsbD_shiftConcat]
  cases j with
  | zero => rw [xorHead_getLsbD_zero _ b hj, clock_getLsbD_zero x taps hj]; simp [hj]
  | succ j => rw [xorHead_getLsbD_succ, clock_getLsbD_succ x taps hj]; simp [hj]

theorem clockAll_of_clockBits_eq {g : Regs} (h12 : clockBit1 g.r1 = clockBit2 g.r2)
    (h23 : clockBit2 g.r2 = clockBit3 g.r3) :
    clockAll g = { r1 := clock g.r1 taps1, r2 := clock g.r2 taps2, r3 := clock g.r3 taps3 } := by
  obtain ⟨-, -, -, hall, -⟩ := everyStepClocksTwoOrThreeRegisters g
  exact hall h12 h23

/-- A round in which all three registers are clocked. -/
theorem keyRound_of_clockBits_eq (key : Key) {g : Regs} (i : Nat) (h12 : clockBit1 g.r1 = clockBit2 g.r2)
    (h23 : clockBit2 g.r2 = clockBit3 g.r3) :
    keyRound key g i =
      { r1 := g.r1.shiftConcat (feedback g.r1 taps1 ^^ keyBit key i)
        r2 := g.r2.shiftConcat (feedback g.r2 taps2 ^^ keyBit key i)
        r3 := g.r3.shiftConcat (feedback g.r3 taps3 ^^ keyBit key i) } := by
  simp only [keyRound, injectBit, clockAll_of_clockBits_eq h12 h23, xorHead_clock]

/-! The first rounds (spec/42_key_scheduler.md R103): while a register holds n key bits only, all from n on is zero. -/

/-- The first n key bits as a number, in a register. -/
def keyPrefix (key : Key) (n w : Nat) : BitVec w :=
  (key >>> (64 - n)).setWidth w

theorem keyPrefix_getLsbD (key : Key) (n w j : Nat) :
    (keyPrefix key n w).getLsbD j = (decide (j < w) && key.getLsbD (64 - n + j)) := by
  simp [keyPrefix]

theorem keyPrefix_getLsbD_of_le (key : Key) {n j : Nat} (w : Nat) (h : n ≤ j) :
    (keyPrefix key n w).getLsbD j = false := by
  rw [keyPrefix_getLsbD, BitVec.getLsbD_of_ge _ _ (by omega), Bool.and_false]

theorem keyPrefix_zero (key : Key) (w : Nat) : keyPrefix key 0 w = 0#w :=
  BitVec.eq_of_getLsbD_eq fun j _ => by rw [keyPrefix_getLsbD_of_le key w j.zero_le, BitVec.getLsbD_zero]

theorem keyPrefix_succ (key : Key) {n : Nat} (w : Nat) (hn : n < 64) :
    keyPrefix key (n + 1) w = (keyPrefix key n w).shiftConcat (keyBit key n) := by
  refine BitVec.eq_of_getLsbD_eq fun j hj => ?_
  rw [BitVec.getLsbD_shiftConcat, keyPrefix_getLsbD]
  cases j with
  | zero => simp [keyBit]
  | succ j =>
    rw [show 64 - (n + 1) + (j + 1) = 64 - n + j by omega, if_neg j.succ_ne_zero, Nat.add_sub_cancel, keyPrefix_getLsbD,
      decide_eq_true (Nat.lt_of_succ_lt hj), Bool.true_and]

theorem feedback_eq_false {n : Nat} {x : BitVec n} {taps : List (Fin n)} (h : ∀ t ∈ taps, x.getLsbD t.val = false) :
    feedback x taps = false := by
  induction taps with
  | nil => rfl
  | cons t ts ih =>
    obtain ⟨ht, hts⟩ := List.forall_mem_cons.1 h
    rw [feedback_cons, ht, ih hts, Bool.xor_false]

theorem feedback_keyPrefix_eq_false (key : Key) {n w : Nat} {taps : List (Fin w)} (h : ∀ t ∈ taps, n ≤ t.val) :
    feedback (keyPrefix key n w) taps = false :=
  feedback_eq_false fun t ht => keyPrefix_getLsbD_of_le key w (h t ht)

section EightKeyBits

/-! Up to eight key bits stay below every clock bit and below every tap but R3[7]. -/

variable (key : Key) {n : Nat} (hn : n ≤ 8)
include hn

theorem feedback_keyPrefix_taps1 : feedback (keyPrefix key n 19) taps1 = false :=
  feedback_keyPrefix_eq_false key fun t ht => hn.trans ((by decide : ∀ t ∈ taps1, 8 ≤ t.val) t ht)

theorem feedback_keyPrefix_taps2 : feedback (keyPrefix key n 22) taps2 = false :=
  feedback_keyPrefix_eq_false key fun t ht => hn.trans ((by decide : ∀ t ∈ taps2, 8 ≤ t.val) t ht)

theorem feedback_keyPrefix_taps3 : feedback (keyPrefix key n 23) taps3 = (keyPrefix key n 23).getLsbD 7 := by
  have hhigh : feedback (keyPrefix key n 23) [20, 21, 22] = false :=
    feedback_keyPrefix_eq_false key fun t ht =>
      hn.trans ((by decide : ∀ t ∈ ([20, 21, 22] : List (Fin 23)), 8 ≤ t.val) t ht)
  rw [taps3, feedback_cons, hhigh, Bool.xor_false]
  rfl

end EightKeyBits

/-- The registers after a plain shift-in of the first n key bits. -/
def Regs.ofKeyPrefix (key : Key) (n : Nat) : Regs :=
  { r1 := keyPrefix key n 19, r2 := keyPrefix key n 22, r3 := keyPrefix key n 23 }

theorem keyRound_ofKeyPrefix (key : Key) {n : Nat} (hn : n ≤ 8) :
    keyRound key (Regs.ofKeyPrefix key n) n =
      { r1 := (keyPrefix key n 19).shiftConcat (keyBit key n)
        r2 := (keyPrefix key n 22).shiftConcat (keyBit key n)
        r3 := (keyPrefix key n 23).shiftConcat ((keyPrefix key n 23).getLsbD 7 ^^ keyBit key n) } := by
  have hzero {j : Nat} (w : Nat) (hj : 8 ≤ j) : (keyPrefix key n w).getLsbD j = false :=
    keyPrefix_getLsbD_of_le key w (hn.trans hj)
  have h1 : clockBit1 (keyPrefix key n 19) = false := hzero 19 (by decide)
  have h2 : clockBit2 (keyPrefix key n 22) = false := hzero 22 (by decide)
  have h3 : clockBit3 (keyPrefix key n 23) = false := hzero 23 (by decide)
  rw [keyRound_of_clockBits_eq key n (g := Regs.ofKeyPrefix key n) (h1.trans h2.symm) (h2.trans h3.symm)]
  simp only [Regs.ofKeyPrefix, feedback_keyPrefix_taps1 key hn, feedback_keyPrefix_taps2 key hn,
    feedback_keyPrefix_taps3 key hn, Bool.false_xor]

theorem keyRounds_eq_ofKeyPrefix (key : Key) {n : Nat} (hn : n ≤ 8) : keyRounds key n = Regs.ofKeyPrefix key n := by
  induction n with
  | zero => simp only [keyRounds, Regs.zero, Regs.ofKeyPrefix, keyPrefix_zero]
  | succ n ih =>
    have htap : (keyPrefix key n 23).getLsbD 7 = false := keyPrefix_getLsbD_of_le key 23 (by omega)
    have hkey : n < 64 := by omega
    rw [keyRounds, ih (by omega), keyRound_ofKeyPrefix key (by omega), htap, Bool.false_xor]
    simp only [Regs.ofKeyPrefix, keyPrefix_succ key _ hkey]

/-- Settles O29: in round 8 the one tap that holds a key bit is R3[7], and the bit is key[0]. -/
theorem firstRoundsShiftTheKeyIn : Obligations.FirstRoundsShiftTheKeyIn := by
  refine ⟨fun key i hi => ?_, fun key => ?_⟩
  · rw [keyRounds_eq_ofKeyPrefix key (by omega), Regs.ofKeyPrefix]
    simp only [keyPrefix, Nat.reduceSubDiff]
  · have hkey0 : (keyPrefix key 8 23).getLsbD 7 = keyBit key 0 := keyPrefix_getLsbD key 8 23 7
    rw [keyRounds, keyRounds_eq_ofKeyPrefix key le_rfl, keyRound_ofKeyPrefix key le_rfl, hkey0]
    simp

/-! Key loading on the document's lists of bits (spec/40_shift_register.md R70). -/

theorem indexBits_zero (n : Nat) : indexBits 0#n = List.replicate n false := by
  simp [indexBits]

theorem listXorHead_indexBits {n : Nat} (x : BitVec (n + 1)) (b : Bool) :
    listXorHead b (indexBits x) = indexBits (xorHead x b) := by
  simp only [indexBits, List.range_succ_eq_map, List.map_cons, List.map_map, listXorHead,
    xorHead_getLsbD_zero x b n.succ_pos]
  congr 1
  exact List.map_congr_left fun j _ => (xorHead_getLsbD_succ x b j).symm

theorem listRound_bits (key : Key) (g : Regs) (i : Nat) : listRound g.bits (keyBit key i) = (keyRound key g i).bits := by
  rw [listRound, listClockAll_bits]
  simp only [Regs.bits, listXorHead_indexBits]
  rfl

theorem keyRounds_bits (key : Key) (n : Nat) : (keyRounds key n).bits = listInit ((List.range n).map (keyBit key)) := by
  induction n with
  | zero =>
    simp only [keyRounds, Regs.zero, Regs.bits, indexBits_zero]
    rfl
  | succ n ih =>
    rw [keyRounds, ← listRound_bits, ih, List.range_succ, List.map_append, List.map_singleton, listInit, listInit,
      List.foldl_concat]

theorem keystream_eq_listGenerate (n : Nat) (g : Regs) : keystream n g = listGenerate n g.bits := by
  induction n generalizing g with
  | zero => rfl
  | succ n ih => rw [keystream, listGenerate, listNextBit_bits, ih]

/-- Settles O24. -/
theorem keystreamRefinesTheDocumentForm : Obligations.KeystreamRefinesTheDocumentForm := by
  intro key n
  have hinit : (initRegs key).bits = listInit ((List.range 64).map (keyBit key)) := keyRounds_bits key 64
  exact ⟨hinit, hinit ▸ keystream_eq_listGenerate n (initRegs key)⟩

/-! SETKEY and RESET (spec/42_key_scheduler.md R95, R96, R102). -/

/-- Settles O31. -/
theorem resetCompletesWithAKey : Obligations.ResetCompletesWithAKey :=
  fun _ hk => exec_of_case (.reset rfl hk)

/-- Settles O30: with KV = 1, writing K and KV as they are leaves what RESET writes. -/
theorem setkeyLoadsTheKey : Obligations.SetkeyLoadsTheKey := by
  refine fun key s => ⟨exec_of_case (.setkey key rfl), fun hk => ?_⟩
  rw [resetCompletesWithAKey s hk, exec_of_case (.setkey s.k rfl)]
  simp only [State.respond_eq, State.setKeyValid, State.setRegs, State.setKey, ← hk]

/-- Settles O42: after either command the registers are those of the key, and the keystream is all that GEN returns. -/
theorem resetReplaysTheKeystreamOfTheKey : Obligations.ResetReplaysTheKeystreamOfTheKey := by
  intro s t n hk
  obtain ⟨s1, s2, hs1, hs2, hsregs⟩ := exists_issue_reset_gen n hk
  obtain ⟨t1, t2, ht1, ht2, htregs⟩ := exists_issue_setkey_gen s.k n t
  exact ⟨s1, s2, t1, t2, _, _, hs1, hs2, ht1, ht2, hsregs.trans htregs.symm, rfl⟩

/-- Settles O60. -/
theorem setkeyhexValidatesBeforeSetkey : Obligations.SetkeyhexValidatesBeforeSetkey := by
  refine fun str s => ⟨fun hnone => ?_, fun key hkey => ⟨_, issue_setkey key s, ?_, rfl, rfl, rfl⟩⟩
  · simp [setkeyhex, hnone]
  · simp [setkeyhex, hkey, issue_setkey]

/-! Hexadecimal digits (spec/42_key_scheduler.md R97, R98). -/

/-- The characters that are digits: the lower-case digits, and the upper-case letters. -/
def hexChars : List Char :=
  hexDigits ++ ['A', 'B', 'C', 'D', 'E', 'F']

/-- The inversion lemma of hexValue: the three ranges of digits. -/
theorem hexValue_cases {c : Char} {v : Nat} (h : hexValue c = some v) :
    (48 ≤ c.toNat ∧ c.toNat ≤ 57 ∧ v = c.toNat - 48) ∨ (97 ≤ c.toNat ∧ c.toNat ≤ 102 ∧ v = c.toNat - 97 + 10)
      ∨ (65 ≤ c.toNat ∧ c.toNat ≤ 70 ∧ v = c.toNat - 65 + 10) := by
  unfold hexValue at h
  split at h
  · next hr => cases h; exact .inl ⟨hr.1, hr.2, rfl⟩
  · split at h
    · next hr => cases h; exact .inr (.inl ⟨hr.1, hr.2, rfl⟩)
    · split at h
      · next hr => cases h; exact .inr (.inr ⟨hr.1, hr.2, rfl⟩)
      · cases h

theorem hexValue_lt {c : Char} {v : Nat} (h : hexValue c = some v) : v < 16 := by
  rcases hexValue_cases h with ⟨-, hc, rfl⟩ | ⟨-, hc, rfl⟩ | ⟨-, hc, rfl⟩ <;> omega

theorem mem_hexChars_of_hexValue {c : Char} {v : Nat} (h : hexValue c = some v) : c ∈ hexChars := by
  have hcode : c.toNat ∈ hexChars.map Char.toNat := by
    rw [show hexChars.map Char.toNat = [48, 49, 50, 51, 52, 53, 54, 55, 56, 57, 97, 98, 99, 100, 101, 102, 65, 66, 67, 68,
      69, 70] from rfl]
    have hrange := hexValue_cases h
    simp only [List.mem_cons, List.not_mem_nil, or_false]
    omega
  obtain ⟨d, hd, hdc⟩ := List.mem_map.1 hcode
  exact Char.toNat_inj.1 hdc ▸ hd

theorem map_hexValue_of_mem_hexChars :
    ∀ c ∈ hexChars, (hexValue c).map (hexDigits.getD · '0') = some (lowerHex c) :=
  List.map_inj_left.1 rfl

/-- The lower-case digit of a digit's value is the digit in lower case. -/
theorem getD_hexDigits_of_hexValue {c : Char} {v : Nat} (h : hexValue c = some v) :
    hexDigits.getD v '0' = lowerHex c := by
  have hdigit := map_hexValue_of_mem_hexChars c (mem_hexChars_of_hexValue h)
  rw [h] at hdigit
  exact Option.some.inj hdigit

theorem hexValue_getD_hexDigits {v : Nat} (hv : v < 16) : hexValue (hexDigits.getD v '0') = some v :=
  have hmap : (List.range 16).map (fun u => hexValue (hexDigits.getD u '0')) = (List.range 16).map some := rfl
  List.map_inj_left.1 hmap v (List.mem_range.2 hv)

theorem hexValue_of_mem_hexDigits : ∀ c ∈ hexDigits, hexValue c ≠ none :=
  have hmap : none ∉ hexDigits.map hexValue := by decide
  fun c hc hnone => hmap (List.mem_map.2 ⟨c, hc, hnone⟩)

theorem lowerHex_of_mem_hexDigits : ∀ c ∈ hexDigits, lowerHex c = c :=
  have hmap : hexDigits.map lowerHex = hexDigits.map id := rfl
  List.map_inj_left.1 hmap

/-! The nibbles of a key. -/

theorem bitVec4_toNat_eq (x : BitVec 4) :
    x.toNat = 8 * (x.getLsbD 3).toNat + 4 * (x.getLsbD 2).toNat + 2 * (x.getLsbD 1).toNat + (x.getLsbD 0).toNat := by
  revert x
  decide

theorem extractLsb'_nibble_getLsbD (key : Key) {j b : Nat} (hj : j < 16) (hb : b < 4) :
    (key.extractLsb' (60 - 4 * j) 4).getLsbD (3 - b) = keyBit key (4 * j + b) := by
  rw [BitVec.getLsbD_extractLsb', keyBit, show 60 - 4 * j + (3 - b) = 63 - (4 * j + b) by omega]
  simp [show 3 - b < 4 by omega]

theorem keyNibble_eq_extractLsb' (key : Key) {j : Nat} (hj : j < 16) :
    keyNibble key j = (key.extractLsb' (60 - 4 * j) 4).toNat := by
  have hbit {b : Nat} (hb : b < 4) := extractLsb'_nibble_getLsbD key hj hb
  rw [bitVec4_toNat_eq, hbit (b := 0) (by decide), hbit (b := 1) (by decide), hbit (b := 2) (by decide),
    hbit (b := 3) (by decide)]
  rfl

theorem keyNibble_lt (key : Key) {j : Nat} (hj : j < 16) : keyNibble key j < 16 := by
  rw [keyNibble_eq_extractLsb' key hj]
  exact BitVec.isLt _

theorem key_eq_of_keyNibble_eq {a b : Key} (h : ∀ j < 16, keyNibble a j = keyNibble b j) : a = b := by
  refine key_eq_of_keyBit_eq fun i hi => ?_
  have hj : i / 4 < 16 := by omega
  have hb : i % 4 < 4 := by omega
  have hnibble : a.extractLsb' (60 - 4 * (i / 4)) 4 = b.extractLsb' (60 - 4 * (i / 4)) 4 :=
    BitVec.eq_of_toNat_eq (by rw [← keyNibble_eq_extractLsb' a hj, ← keyNibble_eq_extractLsb' b hj, h _ hj])
  rw [← Nat.div_add_mod i 4, ← extractLsb'_nibble_getLsbD a hj hb, hnibble, extractLsb'_nibble_getLsbD b hj hb]

/-- The value of nibble j of a list of bits, as keyNibble is of a key. -/
def bitsNibble (bits : List Bool) (j : Nat) : Nat :=
  8 * (bits.getD (4 * j) false).toNat + 4 * (bits.getD (4 * j + 1) false).toNat
    + 2 * (bits.getD (4 * j + 2) false).toNat + (bits.getD (4 * j + 3) false).toNat

theorem keyNibble_keyOfBits {bits : List Bool} (hlen : bits.length = 64) {j : Nat} (hj : j < 16) :
    keyNibble (keyOfBits bits) j = bitsNibble bits j := by
  have hbit {b : Nat} (hb : b < 4) := keyBit_keyOfBits hlen (i := 4 * j + b) (by omega)
  rw [keyNibble, hbit (b := 1) (by decide), hbit (b := 2) (by decide), hbit (b := 3) (by decide),
    keyBit_keyOfBits hlen (by omega)]
  rfl

theorem bitsNibble_nibbleBits_append_zero {v : Nat} (hv : v < 16) (bits : List Bool) :
    bitsNibble (nibbleBits v ++ bits) 0 = v :=
  (by decide : ∀ u < 16, bitsNibble (nibbleBits u) 0 = u) v hv

theorem bitsNibble_nibbleBits_append_succ (v : Nat) (bits : List Bool) (j : Nat) :
    bitsNibble (nibbleBits v ++ bits) (j + 1) = bitsNibble bits j := rfl

/-! HEX2KEY (spec/42_key_scheduler.md R97): its answer is the key whose nibbles are the values of the digits. -/

theorem hexBits_cons_eq_some_iff {c : Char} {cs : List Char} {bits : List Bool} :
    hexBits (c :: cs) = some bits ↔
      ∃ v rest, hexValue c = some v ∧ hexBits cs = some rest ∧ nibbleBits v ++ rest = bits := by
  rw [hexBits]
  cases hexValue c <;> cases hexBits cs <;> simp

theorem hexBits_eq_none_iff {str : List Char} : hexBits str = none ↔ ∃ c ∈ str, hexValue c = none := by
  induction str with
  | nil => simp [hexBits]
  | cons c cs ih =>
    rw [List.exists_mem_cons_iff, ← ih, hexBits]
    cases hexValue c <;> cases hexBits cs <;> simp

theorem length_of_hexBits {str : List Char} {bits : List Bool} (h : hexBits str = some bits) :
    bits.length = 4 * str.length := by
  induction str generalizing bits with
  | nil => cases h; rfl
  | cons c cs ih =>
    obtain ⟨v, rest, -, hrest, rfl⟩ := hexBits_cons_eq_some_iff.1 h
    rw [List.length_append, ih hrest, List.length_cons, Nat.mul_succ, Nat.add_comm]
    rfl

theorem hexValue_of_hexBits {str : List Char} {bits : List Bool} (h : hexBits str = some bits) {j : Nat} {c : Char}
    (hc : str[j]? = some c) : hexValue c = some (bitsNibble bits j) := by
  induction str generalizing bits j with
  | nil => cases hc
  | cons d ds ih =>
    obtain ⟨v, rest, hval, hrest, rfl⟩ := hexBits_cons_eq_some_iff.1 h
    cases j with
    | zero =>
      cases hc
      rw [bitsNibble_nibbleBits_append_zero (hexValue_lt hval), hval]
    | succ j =>
      rw [bitsNibble_nibbleBits_append_succ]
      exact ih hrest hc

theorem hex2key_eq_none_iff {str : List Char} : hex2key str = none ↔ str.length ≠ 16 ∨ ∃ c ∈ str, hexValue c = none := by
  rw [hex2key, ← hexBits_eq_none_iff]
  split <;> simp_all

theorem length_of_hex2key {str : List Char} {key : Key} (h : hex2key str = some key) : str.length = 16 := by
  by_contra hlen
  rw [hex2key_eq_none_iff.2 (.inl hlen)] at h
  cases h

theorem hexValue_of_hex2key {str : List Char} {key : Key} (h : hex2key str = some key) {j : Nat} {c : Char}
    (hc : str[j]? = some c) : hexValue c = some (keyNibble key j) := by
  have hlen := length_of_hex2key h
  have hj : j < 16 := hlen ▸ (List.getElem?_eq_some_iff.1 hc).1
  rw [hex2key, if_neg (not_not_intro hlen)] at h
  obtain ⟨bits, hbits, rfl⟩ := Option.map_eq_some_iff.1 h
  rw [keyNibble_keyOfBits (by rw [length_of_hexBits hbits, hlen]) hj]
  exact hexValue_of_hexBits hbits hc

/-- Settles O58. -/
theorem hexStringsDecodeNibbleByNibble : Obligations.HexStringsDecodeNibbleByNibble := by
  refine ⟨by decide, fun c hc => ?_, fun _ => hex2key_eq_none_iff, fun str key j c hkey hc => ?_⟩
  · exact Option.eq_none_iff_forall_ne_some.2 fun v hval => hc (mem_hexChars_of_hexValue hval)
  · have hj : j < 16 := length_of_hex2key hkey ▸ (List.getElem?_eq_some_iff.1 hc).1
    rw [hexValue_of_hex2key hkey hc, keyNibble_eq_extractLsb' key hj]

/-! KEY2HEX (spec/42_key_scheduler.md R98, R99). -/

theorem length_key2hex (key : Key) : (key2hex key).length = 16 := by
  simp [key2hex]

theorem key2hex_getElem? (key : Key) {j : Nat} (hj : j < 16) :
    (key2hex key)[j]? = some (hexDigits.getD (keyNibble key j) '0') := by
  simp [key2hex, hj]

theorem exists_hex2key {str : List Char} (hlen : str.length = 16) (hval : ∀ c ∈ str, hexValue c ≠ none) :
    ∃ key, hex2key str = some key := by
  rw [← Option.ne_none_iff_exists', Ne, hex2key_eq_none_iff]
  rintro (h | ⟨c, hc, h⟩)
  · exact h hlen
  · exact hval c hc h

theorem hex2key_key2hex (key : Key) : hex2key (key2hex key) = some key := by
  have hval (j : Nat) (hj : j < 16) : hexValue (hexDigits.getD (keyNibble key j) '0') = some (keyNibble key j) :=
    hexValue_getD_hexDigits (keyNibble_lt key hj)
  obtain ⟨key', hkey'⟩ : ∃ key', hex2key (key2hex key) = some key' := by
    refine exists_hex2key (length_key2hex key) fun c hc => ?_
    obtain ⟨j, hj, rfl⟩ := List.mem_map.1 hc
    exact Option.ne_none_iff_exists'.2 ⟨_, hval j (List.mem_range.1 hj)⟩
  obtain rfl : key = key' := key_eq_of_keyNibble_eq fun j hj =>
    Option.some.inj ((hval j hj).symm.trans (hexValue_of_hex2key hkey' (key2hex_getElem? key hj)))
  exact hkey'

theorem key2hex_of_hex2key {str : List Char} {key : Key} (h : hex2key str = some key) :
    key2hex key = str.map lowerHex := by
  have hlen := length_of_hex2key h
  refine List.ext_getElem (by simp [length_key2hex, hlen]) fun j hj hj' => ?_
  rw [length_key2hex] at hj
  have hval := hexValue_of_hex2key h (List.getElem?_eq_getElem (hlen.symm ▸ hj))
  rw [List.getElem_map, ← getD_hexDigits_of_hexValue hval]
  exact Option.some.inj ((List.getElem?_eq_getElem _).symm.trans (key2hex_getElem? key hj))

/-- Settles O59. -/
theorem hexCodecRoundTrips : Obligations.HexCodecRoundTrips := by
  refine ⟨hex2key_key2hex, fun _ _ => key2hex_of_hex2key, fun str hlen hlower => ?_⟩
  obtain ⟨key, hkey⟩ := exists_hex2key hlen fun c hc => hexValue_of_mem_hexDigits c (hlower c hc)
  refine ⟨key, hkey, ?_⟩
  rw [key2hex_of_hex2key hkey, List.map_congr_left fun c hc => lowerHex_of_mem_hexDigits c (hlower c hc), List.map_id']

end Sys2Proof.Machine

/-! PROOFS. The statements about the sample cipher (spec/43_sample_cipher.md): the integer XOR and the transform in closed
form, the commands START and XFORM, and PROCESS as the transform of a buffer along the keystream of the key. -/

namespace Sys2Proof.Machine

/-! The integer XOR at a width that holds both operands (spec/00_scope.md 4.1). -/

/-- The integer is a two's complement number of n bits and a sign. -/
def FitsBits (n : Nat) (a : Int) : Prop :=
  -(2 ^ n) ≤ a ∧ a < 2 ^ n

section IntegerXor

variable {m n : Nat} {a b : Int}

theorem FitsBits.toInt_ofInt (h : FitsBits n a) : (BitVec.ofInt (n + 1) a).toInt = a :=
  BitVec.toInt_ofInt_eq_self n.succ_pos h.1 h.2

/-- A wider form of an integer that fits is the sign extension of the narrower one. -/
theorem FitsBits.signExtend_ofInt (h : FitsBits m a) :
    (BitVec.ofInt (m + 1) a).signExtend (n + 1) = BitVec.ofInt (n + 1) a := by
  rw [BitVec.signExtend, h.toInt_ofInt]

theorem fitsBits_of_natAbs_lt (h : a.natAbs < 2 ^ n) : FitsBits n a := by
  zify at h
  exact ⟨(abs_lt.1 h).1.le, (abs_lt.1 h).2⟩

theorem fitsBits_of_log2_le (h : a.natAbs.log2 ≤ n) : FitsBits (n + 1) a :=
  fitsBits_of_natAbs_lt (Nat.lt_log2_self.trans_le (Nat.pow_le_pow_right (by decide) (Nat.succ_le_succ h)))

/-- XOR works bit by bit, so it commutes with the sign extension to a wider form. -/
theorem xorAt_eq_of_le (hmn : m ≤ n) (ha : FitsBits m a) (hb : FitsBits m b) :
    xorAt (n + 1) a b = xorAt (m + 1) a b := by
  rw [xorAt, ← ha.signExtend_ofInt, ← hb.signExtend_ofInt, ← BitVec.signExtend_xor,
    BitVec.toInt_signExtend_of_le (Nat.succ_le_succ hmn), xorAt]

theorem xorZ_eq_xorAt (ha : FitsBits n a) (hb : FitsBits n b) : xorZ a b = xorAt (n + 1) a b := by
  have ha' := fitsBits_of_log2_le (le_max_left a.natAbs.log2 b.natAbs.log2)
  have hb' := fitsBits_of_log2_le (le_max_right a.natAbs.log2 b.natAbs.log2)
  rcases Nat.le_total n (max a.natAbs.log2 b.natAbs.log2 + 1) with h | h
  · exact xorAt_eq_of_le h ha hb
  · exact (xorAt_eq_of_le h ha' hb').symm

theorem exists_fitsBits (a : Int) : ∃ n, FitsBits n a :=
  ⟨_, fitsBits_of_log2_le le_rfl⟩

theorem xorZ_zero (a : Int) : xorZ a 0 = a := by
  obtain ⟨n, ha⟩ := exists_fitsBits a
  have hzero : FitsBits n 0 := fitsBits_of_natAbs_lt (by simp)
  have hfield : BitVec.ofInt (n + 1) 0 = 0#(n + 1) := rfl
  rw [xorZ_eq_xorAt ha hzero, xorAt, hfield, BitVec.xor_zero, ha.toInt_ofInt]

/-! A number as its sign bit and the bits below it. -/

theorem toInt_zero_append (low : BitVec n) : (0#1 ++ low).toInt = low.toNat := by
  simp [BitVec.toInt_append]

theorem toInt_one_append (low : BitVec n) : (1#1 ++ low).toInt = -2 ^ n + low.toNat := by
  simp [BitVec.toInt_append]

theorem toNat_not_cast (low : BitVec n) : ((~~~low).toNat : Int) = 2 ^ n - 1 - low.toNat := by
  rw [BitVec.toNat_not, Nat.sub_sub, Nat.cast_sub (by omega)]
  push_cast
  omega

/-- XOR with all of the low bits set keeps the sign and inverts the rest: it reflects a number inside its own half-range. -/
theorem xorZ_two_pow_sub_one (ha : FitsBits n a) :
    xorZ a (2 ^ n - 1) = if 0 ≤ a then 2 ^ n - 1 - a else -2 ^ n - 1 - a := by
  have hmask : (0#1 ++ BitVec.allOnes n).toInt = 2 ^ n - 1 := by simp
  have hpos : (0 : Int) < 2 ^ n := by positivity
  have hmaskFits : FitsBits n (2 ^ n - 1) := ⟨by omega, by omega⟩
  obtain ⟨sign, low, hfields⟩ := exists_eq_append (BitVec.ofInt (1 + n) a)
  obtain rfl : (sign ++ low).toInt = a := by rw [← hfields, Nat.add_comm 1 n, ha.toInt_ofInt]
  have hlow : (low.toNat : Int) < 2 ^ n := mod_cast low.isLt
  rw [xorZ_eq_xorAt ha hmaskFits, Nat.add_comm, xorAt, ← hmask, BitVec.ofInt_toInt, BitVec.ofInt_toInt,
    BitVec.xor_append, BitVec.xor_allOnes, BitVec.xor_zero, hmask]
  rcases BitVec.eq_zero_or_eq_one sign with rfl | rfl
  · rw [toInt_zero_append, toInt_zero_append, toNat_not_cast, if_pos (by omega)]
  · rw [toInt_one_append, toInt_one_append, toNat_not_cast, if_neg (by omega)]
    omega

end IntegerXor

/-! CLAMP (spec/43_sample_cipher.md R114). -/

/-- Settles O48. -/
theorem clampOfEveryInteger : Obligations.ClampOfEveryInteger := by
  intro raw
  have h1 : clamp raw 1#2 = min (max raw 0) 255 := rfl
  have h2 : clamp raw 2#2 = min (max raw (-32768)) 32767 := rfl
  rw [h1, h2]
  constructor <;> split_ifs <;> omega

theorem clamp_of_inRange {w : WidthReg} {v : Int} (h : inRange w v) : clamp v w = v := by
  rw [clamp, max_eq_left h.1, min_eq_left h.2]

/-! MASKXOR and the transform in closed form (spec/43_sample_cipher.md R113, R117 to R119). -/

section Transform

variable {w : WidthReg} {k : Bool} {v : Int}

theorem fitsBits_of_inRange_two (h : inRange 2#2 v) : FitsBits 15 v :=
  inRange_two_iff.1 h |>.imp id Int.lt_add_one_of_le

@[simp] theorem maskXor_false (v max : Int) : maskXor v false max = v := by
  simp [maskXor, xorZ_zero]

theorem maskXor_true (v max : Int) : maskXor v true max = xorZ v max := by
  simp [maskXor]

theorem maskXor_one_true (h : inRange 1#2 v) : maskXor v true (maxValue 1#2) = 255 - v := by
  obtain ⟨hlo, hhi⟩ := inRange_one_iff.1 h
  have hfits : FitsBits 8 v := ⟨by omega, by omega⟩
  have hmax : maxValue 1#2 = 2 ^ 8 - 1 := rfl
  rw [maskXor_true, hmax, xorZ_two_pow_sub_one hfits, if_pos hlo]
  omega

theorem maskXor_two_true (h : inRange 2#2 v) :
    maskXor v true (maxValue 2#2) = if 0 ≤ v then 32767 - v else -32769 - v := by
  have hmax : maxValue 2#2 = 2 ^ 15 - 1 := rfl
  rw [maskXor_true, hmax, xorZ_two_pow_sub_one (fitsBits_of_inRange_two h)]
  split <;> omega

/-- Masking reflects a sample inside its range, or inside its half of the range. -/
theorem maskXor_inRange (hw : Supported w) (h : inRange w v) : inRange w (maskXor v k (maxValue w)) := by
  cases k with
  | false => rwa [maskXor_false]
  | true =>
    rcases hw with rfl | rfl
    · rw [maskXor_one_true h]
      rw [inRange_one_iff] at h ⊢
      omega
    · rw [maskXor_two_true h]
      rw [inRange_two_iff] at h ⊢
      split <;> omega

theorem transform_inRange (w : WidthReg) (k : Bool) (v : Int) : inRange w (transform w k v) :=
  clamp_inRange _ w

theorem transform_eq_maskXor (hw : Supported w) (h : inRange w v) : transform w k v = maskXor v k (maxValue w) :=
  clamp_of_inRange (maskXor_inRange hw h)

theorem transform_false (hw : Supported w) (h : inRange w v) : transform w false v = v := by
  rw [transform_eq_maskXor hw h, maskXor_false]

theorem transform_one_true (h : inRange 1#2 v) : transform 1#2 true v = 255 - v := by
  rw [transform_eq_maskXor (.inl rfl) h, maskXor_one_true h]

theorem transform_two_true (h : inRange 2#2 v) :
    transform 2#2 true v = if 0 ≤ v then 32767 - v else -32769 - v := by
  rw [transform_eq_maskXor (.inr rfl) h, maskXor_two_true h]

theorem transform_transform (hw : Supported w) (h : inRange w v) : transform w k (transform w k v) = v := by
  have h' : inRange w (transform w k v) := transform_inRange w k v
  cases k with
  | false => rw [transform_false hw h', transform_false hw h]
  | true =>
    rcases hw with rfl | rfl
    · rw [transform_one_true h', transform_one_true h]
      omega
    · rw [transform_two_true h', transform_two_true h]
      rw [inRange_two_iff] at h
      split <;> split <;> omega

/-! The transform on the 16-bit field (spec/43_sample_cipher.md R117). -/

theorem sampleData_of_inRange (hw : Supported w) (h : inRange w v) : sampleData w v = BitVec.ofInt 16 v := by
  rcases hw with rfl | rfl
  · obtain ⟨n, rfl, -⟩ := exists_nat_of_inRange_one h
    rw [BitVec.ofInt_natCast]
    rfl
  · rfl

/-- Both the sample and maxValue fit the field, so MASKXOR is XOR of fields. -/
theorem maskXor_toInt (f : Data) (w : WidthReg) (k : Bool) :
    maskXor f.toInt k (maxValue w) = (if k then f ^^^ BitVec.ofInt 16 (maxValue w) else f).toInt := by
  cases k with
  | false => exact maskXor_false _ _
  | true =>
    have hf : FitsBits 15 f.toInt := ⟨f.le_toInt, f.toInt_lt⟩
    have hmax : FitsBits 15 (maxValue w) := by
      unfold FitsBits maxValue
      split <;> decide
    rw [maskXor_true, xorZ_eq_xorAt hf hmax, xorAt, BitVec.ofInt_toInt, if_pos rfl]

theorem sampleData_transform (hw : Supported w) (f : Data) (h : inRange w f.toInt) :
    sampleData w (transform w k f.toInt) = if k then f ^^^ BitVec.ofInt 16 (maxValue w) else f := by
  rw [sampleData_of_inRange hw (transform_inRange ..), transform_eq_maskXor hw h, maskXor_toInt, BitVec.ofInt_toInt]

theorem toInt_of_toNat_le {f : Data} (h : f.toNat ≤ 255) : f.toInt = f.toNat :=
  BitVec.toInt_eq_toNat_of_lt (by omega)

theorem toInt_inRange_one {f : Data} (h : f.toNat ≤ 255) : inRange 1#2 f.toInt := by
  rw [toInt_of_toNat_le h, inRange_one_iff]
  omega

theorem toInt_inRange_two (f : Data) : inRange 2#2 f.toInt :=
  ⟨f.le_toInt, Int.le_of_lt_add_one f.toInt_lt⟩

end Transform

/-- Settles O50. -/
theorem clampNeverChangesAnInRangeSample : Obligations.ClampNeverChangesAnInRangeSample :=
  fun _ _ _ hw h => ⟨maskXor_inRange hw h, clamp_of_inRange (maskXor_inRange hw h)⟩

/-- Settles O51: the reflection of a reflection is the sample. -/
theorem transformIsAnInvolution : Obligations.TransformIsAnInvolution :=
  fun _ _ _ hw h => transform_transform hw h

/-- Settles O49: a reflection as a number is the inversion of the masked bits as a field. -/
theorem transformClosedForms : Obligations.TransformClosedForms := by
  refine ⟨fun v hlo hhi => ?_, fun v hlo hhi => ?_, fun f hf => ?_, fun f => ?_⟩
  · exact ⟨transform_false (.inl rfl) ⟨hlo, hhi⟩, transform_one_true ⟨hlo, hhi⟩⟩
  · exact ⟨transform_false (.inr rfl) ⟨hlo, hhi⟩, transform_two_true ⟨hlo, hhi⟩⟩
  · rw [Int.ofNat_eq_natCast, ← toInt_of_toNat_le hf]
    exact sampleData_transform (.inl rfl) f (toInt_inRange_one hf)
  · exact sampleData_transform (.inr rfl) f (toInt_inRange_two f)

/-! START and XFORM with a key loaded (spec/43_sample_cipher.md R112, R115). -/

/-- Settles O33. -/
theorem startCompletesWithAKey : Obligations.StartCompletesWithAKey := by
  intro s width hk hwidth
  have hw : startWidth width = .ok (width.setWidth 2) := by
    rcases hwidth with rfl | rfl <;> rfl
  exact exec_of_case (.start width _ rfl hk hw)

theorem Supported.ne_zero {w : WidthReg} (hw : Supported w) : w ≠ 0#2 := by
  rcases hw with rfl | rfl <;> decide

/-- XFORM of a field that holds an in-range sample of the format started. -/
theorem exec_xform_of_inRange {w : WidthReg} {s : State} {sample : Data} (hk : s.kv = true) (hsw : s.w = w)
    (hw : Supported w) (h : inRange w sample.toInt) :
    exec (.xform sample) s = .next { s with
      regs := clockAll s.regs
      out := s.out ++ [{
        st := .ok
        data := if outBit (clockAll s.regs) then sample ^^^ BitVec.ofInt 16 (maxValue w) else sample }] } := by
  subst hsw
  have hv : sampleOperand s.w sample = .ok sample.toInt := by
    simpa only [BitVec.ofInt_toInt] using sampleOperand_ofInt hw h
  rw [exec_of_case (.xform sample _ rfl hk hw.ne_zero hv), sampleData_transform hw sample h]
  rfl

/-- Settles O34. -/
theorem xformCompletesOnOneByteSamples : Obligations.XformCompletesOnOneByteSamples :=
  fun _ _ hk hw hs => exec_xform_of_inRange hk hw (.inl rfl) (toInt_inRange_one hs)

/-- Settles O35. -/
theorem xformCompletesOnTwoByteSamples : Obligations.XformCompletesOnTwoByteSamples :=
  fun _ sample hk hw => exec_xform_of_inRange hk hw (.inr rfl) (toInt_inRange_two sample)

/-! PROCESS and CHUNK (spec/43_sample_cipher.md R120, R121): the samples of a buffer in parts, one part after another. -/

section Chunks

variable {width : Arg} {s t u : State} {r : Response} {v : Int} {out more : List Int} {e : Status}

/-- What a part of PROCESS ends with: the state, and the samples of the part or the status that ended it. -/
abbrev PartResult := Option (State × Except Status (List Int))

/-- One part after another: the first failure ends both, and the outputs are joined. -/
def partThen : PartResult → (State → PartResult) → PartResult
  | none, _ => none
  | some (t, .error e), _ => some (t, .error e)
  | some (t, .ok out), next =>
    match next t with
    | none => none
    | some (u, .error e) => some (u, .error e)
    | some (u, .ok more) => some (u, .ok (out ++ more))

@[simp] theorem partThen_none (next : State → PartResult) : partThen none next = none := rfl

@[simp] theorem partThen_error (t : State) (e : Status) (next : State → PartResult) :
    partThen (some (t, .error e)) next = some (t, .error e) := rfl

theorem partThen_ok_none {next : State → PartResult} (h : next t = none) :
    partThen (some (t, .ok out)) next = none := by
  simp [partThen, h]

theorem partThen_ok_error {next : State → PartResult} (h : next t = some (u, .error e)) :
    partThen (some (t, .ok out)) next = some (u, .error e) := by
  simp [partThen, h]

theorem partThen_ok_ok {next : State → PartResult} (h : next t = some (u, .ok more)) :
    partThen (some (t, .ok out)) next = some (u, .ok (out ++ more)) := by
  simp [partThen, h]

@[simp] theorem partThen_ok_nil (t : State) (next : State → PartResult) :
    partThen (some (t, .ok [])) next = next t := by
  rcases h : next t with _ | ⟨u, e | more⟩
  · rw [partThen_ok_none h]
  · rw [partThen_ok_error h]
  · rw [partThen_ok_ok h, List.nil_append]

theorem partThen_assoc (p : PartResult) (f g : State → PartResult) :
    partThen (partThen p f) g = partThen p fun t => partThen (f t) g := by
  rcases p with _ | ⟨t, e | out⟩
  · rfl
  · rfl
  · rcases hf : f t with _ | ⟨u, e | more⟩
    · rw [partThen_ok_none hf, partThen_ok_none (by rw [hf, partThen_none]), partThen_none]
    · rw [partThen_ok_error hf, partThen_ok_error (by rw [hf, partThen_error]), partThen_error]
    · rw [partThen_ok_ok hf]
      rcases hg : g u with _ | ⟨u', e | last⟩
      · rw [partThen_ok_none hg, partThen_ok_none (by rw [hf, partThen_ok_none hg])]
      · rw [partThen_ok_error hg, partThen_ok_error (by rw [hf, partThen_ok_error hg])]
      · rw [partThen_ok_ok hg, partThen_ok_ok (by rw [hf, partThen_ok_ok hg]), List.append_assoc]

theorem processChunk_singleton_of_ok (hissue : issue (sampleWord width v) s = some (t, r)) (hr : r.st = .ok) :
    processChunk width [v] s = some (t, .ok [readSample width r.data]) := by
  simp [processChunk, hissue, hr]

theorem processChunk_cons_of_not_ok (vs : List Int) (hissue : issue (sampleWord width v) s = some (t, r))
    (hr : r.st ≠ .ok) : processChunk width (v :: vs) s = some (t, .error r.st) := by
  simp [processChunk, hissue, hr]

theorem processChunk_cons (width : Arg) (v : Int) (vs : List Int) (s : State) :
    processChunk width (v :: vs) s = partThen (processChunk width [v] s) (processChunk width vs) := by
  rcases hissue : issue (sampleWord width v) s with _ | ⟨t, r⟩
  · simp [processChunk, hissue]
  · by_cases hr : r.st = .ok
    · rw [processChunk_singleton_of_ok hissue hr]
      simp only [processChunk, hissue, if_pos hr]
      rcases hvs : processChunk width vs t with _ | ⟨u, e | out⟩
      · rw [partThen_ok_none hvs]
      · rw [partThen_ok_error hvs]
      · rw [partThen_ok_ok hvs, List.singleton_append]
    · rw [processChunk_cons_of_not_ok vs hissue hr, processChunk_cons_of_not_ok [] hissue hr, partThen_error]

theorem processChunk_append (width : Arg) (vs ws : List Int) (s : State) :
    processChunk width (vs ++ ws) s = partThen (processChunk width vs s) (processChunk width ws) := by
  induction vs generalizing s with
  | nil => exact (partThen_ok_nil s _).symm
  | cons v vs ih => rw [List.cons_append, processChunk_cons, processChunk_cons width v vs, partThen_assoc, funext ih]

theorem processChunks_cons (width : Arg) (ch : List Int) (rest : List (List Int)) (s : State) :
    processChunks width (ch :: rest) s = partThen (processChunk width ch s) (processChunks width rest) := by
  rw [processChunks]
  rcases processChunk width ch s with _ | ⟨t, e | out⟩ <;> rfl

theorem processChunks_eq_processChunk_flatten (width : Arg) (parts : List (List Int)) (s : State) :
    processChunks width parts s = processChunk width parts.flatten s := by
  induction parts generalizing s with
  | nil => rfl
  | cons ch rest ih => rw [processChunks_cons, List.flatten_cons, processChunk_append, funext ih]

theorem flatten_chunksUpTo {α : Type} (c : ChunkSize) {fuel : Nat} {buf : List α} (h : buf.length ≤ fuel) :
    (chunksUpTo fuel c buf).flatten = buf := by
  induction fuel generalizing buf with
  | zero =>
    obtain rfl := List.length_eq_zero_iff.1 (Nat.le_zero.1 h)
    rfl
  | succ fuel ih =>
    cases buf with
    | nil => rfl
    | cons x xs =>
      have hdrop : ((x :: xs).drop c.val).length ≤ fuel := by
        have hc : 0 < c.val := c.property
        rw [List.length_cons] at h
        rw [List.length_drop, List.length_cons]
        omega
      rw [chunksUpTo, List.flatten_cons, ih hdrop, List.take_append_drop]

theorem flatten_chunks {α : Type} (c : ChunkSize) (buf : List α) : (chunks c buf).flatten = buf :=
  flatten_chunksUpTo c le_rfl

theorem process_of_start_ok (c : ChunkSize) (buf : List Int) (hissue : issue (encode (.start width)) s = some (t, r))
    (hr : r.st = .ok) : process width c buf s = processChunk width buf t := by
  simp only [process, hissue, if_pos hr, processChunks_eq_processChunk_flatten, flatten_chunks]

theorem process_of_start_not_ok (c : ChunkSize) (buf : List Int)
    (hissue : issue (encode (.start width)) s = some (t, r)) (hr : r.st ≠ .ok) :
    process width c buf s = some (t, .error r.st) := by
  simp only [process, hissue, if_neg hr]

theorem process_chunkSize_irrelevant (width : Arg) (c d : ChunkSize) (buf : List Int) (s : State) :
    process width c buf s = process width d buf s := by
  simp only [process, processChunks_eq_processChunk_flatten, flatten_chunks]

end Chunks

/-! PROCESS of an in-range buffer (spec/43_sample_cipher.md R121, R123, R124): the transform along the keystream. -/

section InRange

variable {w : WidthReg} {s : State} {v : Int} {buf : List Int}

theorem Supported.startWidth_setWidth (hw : Supported w) : startWidth (w.setWidth 64) = .ok w := by
  rcases hw with rfl | rfl <;> rfl

theorem Supported.readSample_setWidth (hw : Supported w) (d : Data) : readSample (w.setWidth 64) d = readData w d := by
  rcases hw with rfl | rfl <;> rfl

/-- The word of an integer of 16 bits under width 1, in range or not, is that of XFORM with the integer in SAMPLE. -/
theorem sampleWord_one {v : Int} (hlo : 0 ≤ v) (hhi : v ≤ 65535) :
    sampleWord 1#64 v = encode (.xform (BitVec.ofInt 16 v)) := by
  obtain ⟨n, rfl⟩ := Int.eq_ofNat_of_zero_le hlo
  have hfield : BitVec.ofInt 64 n = (BitVec.ofInt 16 n).setWidth 64 := by
    apply BitVec.eq_of_toNat_eq
    simp only [BitVec.ofInt_natCast, BitVec.toNat_setWidth, BitVec.toNat_ofNat]
    omega
  rw [sampleWord, if_pos rfl, hfield]
  rfl

theorem sampleWord_of_inRange (hw : Supported w) (h : inRange w v) :
    sampleWord (w.setWidth 64) v = encode (.xform (BitVec.ofInt 16 v)) := by
  rcases hw with rfl | rfl
  · obtain ⟨hlo, hhi⟩ := inRange_one_iff.1 h
    exact sampleWord_one hlo (by omega)
  · rfl

/-- The state after a START of width w that succeeds. -/
def State.started (w : WidthReg) (s : State) : State :=
  ((s.setWidth w).setRegs (initRegs s.k)).respond .ok 0#16

theorem issue_start (hw : Supported w) (hk : s.kv = true) :
    issue (encode (.start (w.setWidth 64))) s = some (s.started w, { st := .ok, data := 0#16 }) :=
  issue_of_execCase (.start _ w rfl hk hw.startWidth_setWidth) rfl

/-- The block reads the sample that the host presents, and the host reads the transformed sample that the block answers. -/
theorem processChunk_singleton (hw : Supported w) (hk : s.kv = true) (hsw : s.w = w) (h : inRange w v) :
    ∃ t, processChunk (w.setWidth 64) [v] s = some (t, .ok [transform w (outBit (clockAll s.regs)) v]) ∧
      t.SameBlock (s.setRegs (clockAll s.regs)) := by
  subst hsw
  have hissue := issue_of_execCase (.xform _ v rfl hk hw.ne_zero (sampleOperand_ofInt hw h)) rfl
  rw [← sampleWord_of_inRange hw h] at hissue
  have hchunk := processChunk_singleton_of_ok hissue rfl
  rw [hw.readSample_setWidth, readData_sampleData hw (transform_inRange ..)] at hchunk
  exact ⟨_, hchunk, rfl, rfl, rfl, rfl⟩

/-- The samples transformed along the keystream from registers g; transformBuffer starts at INITREGS of the key. -/
def transformFrom (w : WidthReg) (g : Regs) (buf : List Int) : List Int :=
  List.zipWith (transform w) (keystream buf.length g) buf

theorem transformBuffer_eq (w : WidthReg) (key : Key) (buf : List Int) :
    transformBuffer w key buf = transformFrom w (initRegs key) buf := rfl

theorem transformFrom_nil (w : WidthReg) (g : Regs) : transformFrom w g [] = [] := rfl

theorem transformFrom_cons (w : WidthReg) (g : Regs) (v : Int) (vs : List Int) :
    transformFrom w g (v :: vs) = transform w (outBit (clockAll g)) v :: transformFrom w (clockAll g) vs := rfl

theorem length_transformFrom (w : WidthReg) (g : Regs) (buf : List Int) :
    (transformFrom w g buf).length = buf.length := by
  induction buf generalizing g with
  | nil => rfl
  | cons v vs ih => rw [transformFrom_cons, List.length_cons, ih, List.length_cons]

theorem transformFrom_inRange (w : WidthReg) (g : Regs) (buf : List Int) :
    ∀ v ∈ transformFrom w g buf, inRange w v := by
  induction buf generalizing g with
  | nil => simp [transformFrom_nil]
  | cons v vs ih =>
    rw [transformFrom_cons, List.forall_mem_cons]
    exact ⟨transform_inRange .., ih _⟩

/-- Sample by sample, the same bit is used both times. -/
theorem transformFrom_transformFrom (hw : Supported w) (g : Regs) (hbuf : ∀ v ∈ buf, inRange w v) :
    transformFrom w g (transformFrom w g buf) = buf := by
  induction buf generalizing g with
  | nil => rfl
  | cons v vs ih =>
    rw [List.forall_mem_cons] at hbuf
    rw [transformFrom_cons, transformFrom_cons, transform_transform hw hbuf.1, ih _ hbuf.2]

theorem processChunk_of_inRange (hw : Supported w) (hk : s.kv = true) (hsw : s.w = w) (hbuf : ∀ v ∈ buf, inRange w v) :
    ∃ t, processChunk (w.setWidth 64) buf s = some (t, .ok (transformFrom w s.regs buf)) ∧
      t.SameBlock (s.setRegs (clockAllN buf.length s.regs)) := by
  induction buf generalizing s with
  | nil => exact ⟨s, rfl, rfl, rfl, rfl, rfl⟩
  | cons v vs ih =>
    rw [List.forall_mem_cons] at hbuf
    obtain ⟨t, ht, htregs, htk, htw, htkv⟩ := processChunk_singleton hw hk hsw hbuf.1
    obtain ⟨u, hu, huregs, huk, huw, hukv⟩ := ih (htkv.trans hk) (htw.trans hsw) hbuf.2
    rw [htregs] at hu huregs
    exact ⟨u, by rw [processChunk_cons, ht, partThen_ok_ok hu]; rfl,
      huregs, huk.trans htk, huw.trans htw, hukv.trans htkv⟩

/-- PROCESS of an in-range buffer starts at INITREGS of the key and consumes one bit for each sample. -/
theorem process_of_inRange (c : ChunkSize) (hw : Supported w) (hk : s.kv = true) (hbuf : ∀ v ∈ buf, inRange w v) :
    ∃ t, process (w.setWidth 64) c buf s = some (t, .ok (transformBuffer w s.k buf)) ∧ t.k = s.k ∧ t.kv = true := by
  obtain ⟨t, ht, -, htk, -, htkv⟩ :=
    processChunk_of_inRange (s := s.started w) hw hk rfl hbuf
  exact ⟨t, (process_of_start_ok c buf (issue_start hw hk) rfl).trans ht, htk, htkv.trans hk⟩

end InRange

/-- Settles O54: the commands issued are those of the flattened chunks, whatever CHUNK is. -/
theorem processDoesNotDependOnTheChunkSize : Obligations.ProcessDoesNotDependOnTheChunkSize := by
  refine ⟨process_chunkSize_irrelevant, fun c buf s hk => ⟨fun hbuf => ?_, fun hbuf => ?_⟩⟩
  · obtain ⟨t, ht, -⟩ := process_of_inRange c (.inl rfl) hk hbuf
    exact ⟨t, ht⟩
  · obtain ⟨t, ht, -⟩ := process_of_inRange c (.inr rfl) hk hbuf
    exact ⟨t, ht⟩

/-- Settles O55: the first PROCESS leaves the key, so both transform along the same keystream. -/
theorem processTwiceRestoresTheBuffer : Obligations.ProcessTwiceRestoresTheBuffer := by
  intro w c d buf s hw hk hbuf
  obtain ⟨t, ht, htk, htkv⟩ := process_of_inRange c hw hk hbuf
  obtain ⟨u, hu, -⟩ := process_of_inRange d hw htkv (transformFrom_inRange w (initRegs s.k) buf)
  rw [htk, transformBuffer_eq, transformFrom_transformFrom hw _ hbuf] at hu
  exact ⟨t, _, u, ht, hu⟩

/-- Settles O56. -/
theorem processOutputHasTheShapeOfTheInput : Obligations.ProcessOutputHasTheShapeOfTheInput := by
  intro w c buf s hw hk hbuf
  obtain ⟨t, ht, -⟩ := process_of_inRange c hw hk hbuf
  exact ⟨t, _, ht, length_transformFrom .., transformFrom_inRange w _ buf⟩

/-! How PROCESS fails (spec/43_sample_cipher.md R120). -/

/-- A sample above one byte has a bit in ARG[15:8], which the block rejects before it moves the generator. -/
theorem issue_sampleWord_above_byte {s : State} {bad : Int} (hk : s.kv = true) (hsw : s.w = 1#2) (hlo : 255 < bad)
    (hhi : bad ≤ 65535) :
    issue (sampleWord 1#64 bad) s = some (s.raise .sampleRange, { st := .sampleRange, data := 0#16 }) := by
  have hhigh : (BitVec.ofInt 16 bad).extractLsb' 8 8 ≠ 0#8 := by
    obtain ⟨n, rfl⟩ := Int.eq_ofNat_of_zero_le (by omega : 0 ≤ bad)
    rw [Ne, ← BitVec.toNat_inj, BitVec.extractLsb'_toNat, BitVec.ofInt_natCast, BitVec.toNat_ofNat, BitVec.toNat_ofNat,
      Nat.shiftRight_eq_div_pow]
    omega
  rw [sampleWord_one (by omega) hhi]
  exact issue_of_execCase (.sampleRange _ rfl hk hsw hhigh) rfl

theorem process_unsupported {width : Arg} (c : ChunkSize) (buf : List Int) (s : State) (h1 : width ≠ 1#64)
    (h2 : width ≠ 2#64) :
    process width c buf s = some (s.raise .unsupportedFormatError, .error .unsupportedFormatError) :=
  process_of_start_not_ok c buf (issue_of_execCase (.unsupported width rfl ⟨h1, h2⟩) rfl) (by decide)

theorem process_noKey {width : Arg} {s : State} (c : ChunkSize) (buf : List Int) (hwidth : width = 1#64 ∨ width = 2#64)
    (hk : s.kv = false) : process width c buf s = some (s.raise .noKey, .error .noKey) :=
  process_of_start_not_ok c buf (issue_of_execCase (.noKey hk (.inr (.inr (.inl ⟨width, rfl, hwidth⟩)))) rfl) (by decide)

/-- The samples before one that is out of range have consumed one bit each. -/
theorem process_sampleRange {s : State} {pre : List Int} {bad : Int} (c : ChunkSize) (post : List Int)
    (hk : s.kv = true) (hpre : ∀ v ∈ pre, inRange 1#2 v) (hlo : 255 < bad) (hhi : bad ≤ 65535) :
    ∃ t, process 1#64 c (pre ++ bad :: post) s = some (t, .error .sampleRange) ∧
      t.regs = clockAllN pre.length (initRegs s.k) := by
  have hw : Supported 1#2 := .inl rfl
  have hstart : issue (encode (.start 1#64)) s = some (s.started 1#2, _) := issue_start hw hk
  obtain ⟨t, ht, htregs, -, htw, htkv⟩ := processChunk_of_inRange (s := s.started 1#2) hw hk rfl hpre
  have hrun : processChunk 1#64 pre (s.started 1#2) = some (t, .ok _) := ht
  have hbad := issue_sampleWord_above_byte (htkv.trans hk) htw hlo hhi
  refine ⟨t.raise .sampleRange, ?_, htregs⟩
  rw [process_of_start_ok c _ hstart rfl, processChunk_append, hrun]
  exact partThen_ok_error (processChunk_cons_of_not_ok post hbad (by decide))

/-- Settles O57: the errors of START leave the state of the block as it is. -/
theorem processFailsFast : Obligations.ProcessFailsFast := by
  refine ⟨fun width c buf s h1 h2 => ?_, fun width c buf s hwidth hk => ?_, fun c pre post bad s hk hpre hlo hhi => ?_⟩
  · exact ⟨_, process_unsupported c buf s h1 h2, rfl, rfl, rfl, rfl⟩
  · exact ⟨_, process_noKey c buf hwidth hk, rfl, rfl, rfl, rfl⟩
  · exact process_sampleRange c post hk hpre hlo hhi

end Sys2Proof.Machine

/-! PROOFS. The statements about errors (spec/60_exceptions.md): the first condition each command word reports, what a failing
command leaves unchanged, which statuses the block answers, and the idle block. -/

namespace Sys2Proof.Machine

/-- Settles O4. -/
theorem idleBlockHoldsItsState : Obligations.IdleBlockHoldsItsState :=
  fun _ hin => step_of_case (.idle hin)

/-! A command ends with OK or raises an error (spec/60_exceptions.md R134, R135). -/

/-- The errors of the block, in their order of priority (spec/60_exceptions.md R137). -/
def blockErrors : List Status :=
  [.illegalCommand, .unsupportedFormatError, .noKey, .noFormat, .sampleRange]

theorem ExecCase.ok_or_raise {i : Instr} {s t : State} (hc : ExecCase i s t) :
    (∃ d, t.out = s.out ++ [{ st := .ok, data := d }]) ∨ ∃ st ∈ blockErrors, t = s.raise st := by
  cases hc with
  | unsupported | noKey | noFormat | sampleRange => exact .inr ⟨_, by decide, rfl⟩
  | setkey | reset | nextbit | start | xform => exact .inl ⟨_, rfl⟩

/-- A response comes from a command: it is OK, or an error with DATA 0 raised on the state less the event taken. -/
theorem StepCase.response_cases {s t : State} {r : Response} (hs : StepCase s t) (hout : t.out = s.out ++ [r]) :
    r.st = .ok ∨ ∃ st ∈ blockErrors, r = { st := st, data := 0#16 } ∧
      t = State.raise { s with input := s.input.tail } st := by
  cases hs with
  | idle | hreset => simp at hout
  | illegal cw rest e hin hd =>
    rw [hin, List.tail_cons]
    exact .inr ⟨_, by decide, by simpa using hout.symm, rfl⟩
  | command cw rest i t hin hd hc =>
    rw [hin, List.tail_cons]
    rcases hc.ok_or_raise with ⟨d, hok⟩ | ⟨st, hst, rfl⟩
    · obtain rfl : r = { st := .ok, data := d } := by simpa [hok] using hout.symm
      exact .inl rfl
    · exact .inr ⟨st, hst, by simpa using hout.symm, rfl⟩

/-- Settles O37: raise only adds its response. -/
theorem errorsChangeNothing : Obligations.ErrorsChangeNothing := by
  intro s t cw rest r hin hstep hout hfail
  rcases (step_cases hstep).response_cases hout with hok | ⟨st, -, rfl, rfl⟩
  · exact absurd hok hfail
  · rw [hin, List.tail_cons]
    exact ⟨rfl, rfl⟩

/-- Settles O38: neither status is OK or among the errors of the block. -/
theorem blockNeverAnswersTheHostsStatuses : Obligations.BlockNeverAnswersTheHostsStatuses := by
  intro s t r hstep hout
  rcases (step_cases hstep).response_cases hout with hok | ⟨st, hst, rfl, -⟩
  · rw [hok]
    decide
  · have hblock : ∀ st ∈ blockErrors, st ≠ .validationError ∧ st ≠ .processingError := by decide
    exact hblock st hst

/-! The first condition that holds (spec/60_exceptions.md R137). -/

/-- The status a decoded command ends with: its row of the table of R137, the conditions in order. -/
def commandStatus (s : State) : Instr → Status
  | .setkey _ => .ok
  | .reset | .nextbit => if s.kv = false then .noKey else .ok
  | .start width =>
    if width ≠ 1#64 ∧ width ≠ 2#64 then .unsupportedFormatError
    else if s.kv = false then .noKey
    else .ok
  | .xform sample =>
    if s.kv = false then .noKey
    else if s.w = 0#2 then .noFormat
    else if s.w = 1#2 ∧ sample.extractLsb' 8 8 ≠ 0#8 then .sampleRange
    else .ok

theorem not_unsupported {width : Arg} (h : width = 1#64 ∨ width = 2#64) : ¬(width ≠ 1#64 ∧ width ≠ 2#64) := by
  tauto

theorem not_sampleRange_of_sampleOperand {w : WidthReg} {f : Data} {v : Int} (h : sampleOperand w f = .ok v) :
    ¬(w = 1#2 ∧ f.extractLsb' 8 8 ≠ 0#8) := by
  rintro ⟨hw, hf⟩
  rcases sampleOperand_ok w f v h with ⟨-, hzero, -⟩ | ⟨hne, -⟩
  · exact hf hzero
  · exact hne hw

/-- A command answers once, with the status of its first failing condition. -/
theorem ExecCase.response_status {i : Instr} {s t : State} (hc : ExecCase i s t) :
    ∃ r, t.out = s.out ++ [r] ∧ r.st = commandStatus s i := by
  cases hc with
  | unsupported width hi hw => subst hi; exact ⟨_, rfl, (if_pos hw).symm⟩
  | noKey hk hi =>
    rcases hi with rfl | rfl | ⟨width, rfl, hw⟩ | ⟨sample, rfl⟩
    · exact ⟨_, rfl, (if_pos hk).symm⟩
    · exact ⟨_, rfl, (if_pos hk).symm⟩
    · exact ⟨_, rfl, by rw [commandStatus, if_neg (not_unsupported hw), if_pos hk]⟩
    · exact ⟨_, rfl, (if_pos hk).symm⟩
  | noFormat sample hi hk hw => subst hi; exact ⟨_, rfl, by simp [commandStatus, hk, hw]⟩
  | sampleRange sample hi hk hw hf => subst hi; exact ⟨_, rfl, by simp [commandStatus, hk, hw, hf]⟩
  | setkey key hi => subst hi; exact ⟨_, rfl, rfl⟩
  | reset hi hk | nextbit hi hk => subst hi; exact ⟨_, rfl, by simp [commandStatus, hk]⟩
  | start width w hi hk hw =>
    subst hi
    have hwidth : width = 1#64 ∨ width = 2#64 := ((startWidth_ok_iff width w).1 hw).imp And.left And.left
    exact ⟨_, rfl, by simp [commandStatus, hk, not_unsupported hwidth]⟩
  | xform sample v hi hk hw hv =>
    subst hi
    exact ⟨_, rfl, by simp [commandStatus, hk, hw, not_sampleRange_of_sampleOperand hv]⟩

/-- The conditions of R137 read KV and W, not the host's events. -/
theorem commandStatus_withInput (s : State) (rest : List HostEvent) (i : Instr) :
    commandStatus { s with input := rest } i = commandStatus s i := by
  cases i <;> rfl

theorem exists_step_status {s : State} {cw : CommandWord} {rest : List HostEvent} {i : Instr}
    (hin : s.input = .command cw :: rest) (hd : decode cw = .ok i) :
    ∃ t r, step s = .next t ∧ t.out = s.out ++ [r] ∧ r.st = commandStatus s i := by
  obtain ⟨t, ht⟩ := exists_exec_eq_next i { s with input := rest }
  obtain ⟨r, hout, hst⟩ := (exec_cases ht).response_status
  exact ⟨t, r, (step_of_decode_ok hin hd).trans ht, hout, hst.trans (commandStatus_withInput s rest i)⟩

/-- Why a word is no command (spec/30_encoding.md R53, R54): reserved bits of an assigned opcode, or a reserved opcode. -/
theorem not_command_of_decode_error {op : Opcode} {arg : Arg} {e : DecodeError} (h : decode (op ++ arg) = .error e) :
    ((op = 0x02#8 ∨ op = 0x03#8) ∧ arg ≠ 0#64) ∨ (op = 0x05#8 ∧ arg.extractLsb' 16 48 ≠ 0#48) ∨
      op ≠ 0x01#8 ∧ op ≠ 0x02#8 ∧ op ≠ 0x03#8 ∧ op ≠ 0x04#8 ∧ op ≠ 0x05#8 := by
  rw [decode, splitWord_append, decodeFields] at h
  split_ifs at h with h1 h2 harg h3 harg h4 h5 harg
  · exact .inl ⟨.inl h2, harg⟩
  · exact .inl ⟨.inr h3, harg⟩
  · exact .inr (.inl ⟨h5, harg⟩)
  · exact .inr (.inr ⟨h1, h2, h3, h4, h5⟩)

/-- The byte that SampleRange tests is ARG[15:8], whether read from ARG or from SAMPLE. -/
theorem extractLsb'_highByte_setWidth (sample : Data) :
    (sample.setWidth 64).extractLsb' 8 8 = sample.extractLsb' 8 8 := by
  apply BitVec.eq_of_toNat_eq
  simp only [BitVec.extractLsb'_toNat, BitVec.toNat_setWidth_of_le (show 16 ≤ 64 by decide)]

/-- Settles O36: a word that is no command is illegal by its opcode or its reserved bits, and a command reports the first
condition of its row. -/
theorem everyWordReportsTheFirstCondition : Obligations.EveryWordReportsTheFirstCondition := by
  intro s op arg rest hin
  cases hd : decode (op ++ arg) with
  | error e =>
    refine ⟨_, _, step_of_case (.illegal _ rest e hin hd), rfl, ?_⟩
    rcases not_command_of_decode_error hd with ⟨rfl | rfl, harg⟩ | ⟨rfl, harg⟩ | ⟨h1, h2, h3, h4, h5⟩
    · simp [harg]
    · simp [harg]
    · simp [harg]
    · simp [h1, h2, h3, h4, h5]
  | ok i =>
    obtain ⟨t, r, hstep, hout, hst⟩ := exists_step_status hin hd
    obtain ⟨rfl, rfl⟩ := decode_append_eq_ok_iff.1 hd
    refine ⟨t, r, hstep, hout, hst.trans ?_⟩
    cases i with
    | setkey | reset | nextbit | start => rfl
    | xform sample => simp [commandStatus, Instr.opcode, Instr.arg, extractLsb'_highByte_setWidth]

end Sys2Proof.Machine

/-! PROOFS. The statements about the hardware reset and the end of a step (spec/70_reset_and_hazards.md). -/

namespace Sys2Proof.Machine

/-- Settles O43: an idle block holds its state (log 5), and a step serves whatever event comes next, a failing command being
a next state (log 11). -/
theorem everyStepEndsInANextState : Obligations.EveryStepEndsInANextState := by
  intro s
  cases hin : s.input with
  | nil => exact ⟨s, idleBlockHoldsItsState s hin⟩
  | cons e rest =>
    obtain ⟨t, -, hstep, -⟩ := exists_step_of_input_cons hin
    exact ⟨t, hstep⟩

/-- Settles O2: the next state is that of HRESET on the state less the event taken (log 7). -/
theorem hresetEventClearsKeyValidAndWidth : Obligations.HresetEventClearsKeyValidAndWidth := by
  intro s rest hin
  exact ⟨_, step_of_case (.hreset rest hin), State.hreset_kv _, State.hreset_w _, State.hreset_out _,
    State.hreset_input _⟩

end Sys2Proof.Machine

/-! PROOFS. The statement about the width of the integer XOR (spec/00_scope.md 4.1). -/

namespace Sys2Proof.Machine

/-- Settles O47: XOR commutes with sign extension (`xorAt_eq_of_le`), so every width that holds both operands gives the
integer that the width of `xorZ` gives. -/
theorem integerXorDoesNotDependOnTheWidth : Obligations.IntegerXorDoesNotDependOnTheWidth := by
  intro n a b haLo haHi hbLo hbHi
  have ha : FitsBits n a := ⟨haLo, haHi⟩
  have hb : FitsBits n b := ⟨hbLo, hbHi⟩
  exact (xorZ_eq_xorAt ha hb).symm

end Sys2Proof.Machine
